-- ==== Sys2Proof/Word.lean ====
section
/-!
DEFINITION. The widths the spec computes with: bytes of the window, 12-bit window offsets, 32-bit
operands and the 48-bit command word (00_scope.md R10, 20_memory.md R60, 30_encoding.md R91).
-/
namespace Sys2Proof

/-- One byte of the window or of an 8-bit engine register (R10). -/
abbrev Byte := BitVec 8

/-- An offset from the base of the register window; the window has 4096 bytes (10_state.md R21). -/
abbrev Offset := BitVec 12

/-- A 32-bit value: the data of a 32-bit access, and the `ARG` field (R61 to R64, R91). -/
abbrev Word32 := BitVec 32

/-- The 48-bit command word of format `CW48` (R91). -/
abbrev CmdWord := BitVec 48

end Sys2Proof
end

