-- ==== Sys2Proof/Config.lean ====
section
/-!
DEFINITION. The constants the source fixes (00_scope.md R8), the parameters it leaves open (R9), and
the one free value of the model: the choices of the arbiter (60_exceptions.md R209).

The open parameters of R9 are arguments of the model, each in one place: `HAS_ZEROPAGE`, `DIPSW_INIT` and
`TARGET_WRITABLE` in `Params`, `WINDOW_INIT` as the window of the state a run begins in, `ARB_POLICY` as
the choices that the turns or `arbPick` name, `DECIMAL_GRAMMAR` as the argument of the front end
(Machine/Operands.lean), `N_BOARDS` as the argument of `Boards` (Machine/Boards.lean).
-/
namespace Sys2Proof.Config

/-! ## Constants of R8 -/

def offBootp : Offset := 0x000#12
def offStat : Offset := 0x001#12
def offDipsw : Offset := 0x002#12
def offBufA : Offset := 0x800#12
def offBufB : Offset := 0xC00#12
def offFfe : Offset := 0xFFE#12
def offFff : Offset := 0xFFF#12

/-- `WINDOW_SIZE`, the bytes of the window (10_state.md R21, decision D2). -/
abbrev windowSize : Nat := 4096

/-- `HOST_IF_BUFSIZE`: bytes in each buffer channel and in every transfer. -/
abbrev bufSize : Nat := 1020

/-- `SETTLE_ITERS`: iterations of the settling loop. -/
abbrev settleIters : Nat := 30000

/-- `BOOTP_RUN`, the RUN flag. -/
def bootpRun : Byte := 0x01#8
/-- `STAT_BIT2`, transfer-pending / IRQ-ack. -/
def statBit2 : Byte := 0x04#8
/-- `STAT_LOW`, the interrupt-cause flags. -/
def statLow : Byte := 0x0F#8
/-- `STAT_HIGH`, the mask of reset step 4. -/
def statHigh : Byte := 0xF0#8
/-- `STAT_B_KEEP`, bits 5 and 7: the mask of the channel-B pre-clear and the value of reset step 5. -/
def statBKeep : Byte := 0xA0#8
/-- `DIPSW_MODE`, the mode selector of `dipsw` (written, read by no rule of the engine: R47). -/
def dipswMode : Byte := 0x08#8
/-- `DOORBELL_VAL`, what a transfer writes to `fff`. -/
def doorbellVal : Byte := 0x01#8

/-- The choices of the arbiter past the end of `State.turns`: a FREE VALUE, nothing constrains it
(`ARB_POLICY` is open, R209, decision D14; log entry 8). Applied to the counter `State.draws`. Every
board draws from this one constant (log entry 28). -/
opaque arbPick : Nat → Nat

end Sys2Proof.Config

namespace Sys2Proof

/-- `DECIMAL_GRAMMAR` (R9, 30_encoding.md R110, decision D28), an argument of the front end: the number a
text denotes, or nothing when the text is no decimal unsigned integer under the grammar. -/
abbrev DecimalGrammar := List Char → Option Nat

/-- The open parameters of R9 that the engine and the target use: arguments of the model, carried
in `State.params` and written by no step (log entry 5). -/
structure Params where
  /-- `HAS_ZEROPAGE`: the optional capability of `GET_ZEROPAGE` (decision D17). -/
  hasZeropage : Bool
  /-- `DIPSW_INIT`: the byte of the "dipsw-mode write" of attach (decision D19). -/
  dipswInit : Byte
  /-- The offsets OUTSIDE `TARGET_WRITABLE` (decision D7; the default is none). -/
  targetReadOnly : List Offset
  deriving DecidableEq, Repr

end Sys2Proof
end

