-- ==== Sys2Proof/Syntax.lean ====
section
/-!
DEFINITION. The twenty commands of 30_encoding.md R93 with their operands (R100 to R106), and the
names the command set is written with: ports, registers, channels.
-/
namespace Sys2Proof

/-- The three request ports (R95). -/
inductive Port where
  | cmd
  | irq
  | life
  deriving DecidableEq, Repr

/-- The code of a port in the 2-bit register `owner` (10_state.md R38). -/
def Port.code : Port → BitVec 2
  | .cmd => 0#2
  | .irq => 1#2
  | .life => 2#2

/-- The five named byte registers a `GET_x` or `SET_x` reaches (10_state.md R38). -/
inductive Reg where
  | bootp
  | stat
  | dipsw
  | ffe
  | fff
  deriving DecidableEq, Repr

/-- The register index held in the 3-bit register `sel` (R38). -/
def Reg.index : Reg → BitVec 3
  | .bootp => 0#3
  | .stat => 1#3
  | .dipsw => 2#3
  | .ffe => 3#3
  | .fff => 4#3

/-- The offset function `off(sel)` (R38). -/
def Reg.offset : Reg → Offset
  | .bootp => Config.offBootp
  | .stat => Config.offStat
  | .dipsw => Config.offDipsw
  | .ffe => Config.offFfe
  | .fff => Config.offFff

/-- The two buffer channels (R25, R26). -/
inductive Channel where
  | a
  | b
  deriving DecidableEq, Repr

/-- The code of a channel in the 1-bit register `ch` (R38). -/
def Channel.code : Channel → BitVec 1
  | .a => 0#1
  | .b => 1#1

/-- The base function `base(ch)` (R38). -/
def Channel.base : Channel → Offset
  | .a => Config.offBufA
  | .b => Config.offBufB

/-- The numeric operand of a command that takes a number (R100): the text did not parse (`NP = 1`),
or it is the number `ARG`. -/
inductive Operand where
  | notParsed
  | number (arg : Word32)
  deriving DecidableEq, Repr

/-- The commands, one constructor per row of the opcode table (R93). Fields a command ignores
(R106) are no operands; the payload of a transfer follows its word (R92). -/
inductive Instr where
  | getBootp
  | getStat
  | getDipsw
  | getFfe
  | getFff
  | setBootp (v : Operand)
  | setStat (v : Operand)
  | setDipsw (v : Operand)
  | setFfe (v : Operand)
  | setFff (v : Operand)
  | rdA
  | rdB
  | xferA (len : Word32) (data : List Byte)
  | xferB (len : Word32) (data : List Byte)
  | getBufsize
  | getZeropage
  | reset (n : Operand)
  | irqSvc
  | attach (mapOk irqOk : Bool)
  | detach
  deriving DecidableEq, Repr

/-- The port a command belongs to (R93, R95). -/
def Instr.port : Instr → Port
  | .irqSvc => .irq
  | .attach _ _ => .life
  | .detach => .life
  | .getBootp => .cmd
  | .getStat => .cmd
  | .getDipsw => .cmd
  | .getFfe => .cmd
  | .getFff => .cmd
  | .setBootp _ => .cmd
  | .setStat _ => .cmd
  | .setDipsw _ => .cmd
  | .setFfe _ => .cmd
  | .setFff _ => .cmd
  | .rdA => .cmd
  | .rdB => .cmd
  | .xferA _ _ => .cmd
  | .xferB _ _ => .cmd
  | .getBufsize => .cmd
  | .getZeropage => .cmd
  | .reset _ => .cmd

end Sys2Proof
end

