-- ==== Sys2Proof/WellFormed.lean ====
section
/-!
DEFINITION. Which commands are well formed: the payload of a transfer has `ARG` bytes, "by
construction of the front end" (30_encoding.md R92). Everything else of a command is checked by the
engine at acceptance and answered with a rejection, so it is no matter of well-formedness.
-/
namespace Sys2Proof

/-- R92: a transfer carries `ARG` bytes of payload. -/
def Instr.wellFormed : Instr → Bool
  | .xferA len data => decide (data.length = len.toNat)
  | .xferB len data => decide (data.length = len.toNat)
  | .getBootp => true
  | .getStat => true
  | .getDipsw => true
  | .getFfe => true
  | .getFff => true
  | .setBootp _ => true
  | .setStat _ => true
  | .setDipsw _ => true
  | .setFfe _ => true
  | .setFff _ => true
  | .rdA => true
  | .rdB => true
  | .getBufsize => true
  | .getZeropage => true
  | .reset _ => true
  | .irqSvc => true
  | .attach _ _ => true
  | .detach => true

end Sys2Proof
end

