-- ==== Sys2Proof/Decode.lean ====
section
/-!
DEFINITION. The command word `CW48` (30_encoding.md R91): its fields, the decoder (R93, R94, R105),
total on every word and payload and rejecting by name, and the encoder written from the same table.
-/
namespace Sys2Proof

/-! ## Fields (R91) -/

/-- `OPC`, bits 47:40. -/
def opcField (w : CmdWord) : BitVec 8 := w.extractLsb' 40 8
/-- `RSV`, bits 39:33. -/
def rsvField (w : CmdWord) : BitVec 7 := w.extractLsb' 33 7
/-- `NP`, bit 32. -/
def npField (w : CmdWord) : Bool := w.getLsbD 32
/-- `ARG`, bits 31:0. -/
def argField (w : CmdWord) : Word32 := w.extractLsb' 0 32

/-- The word with the given `OPC`, `NP` and `ARG`, and `RSV = 0` (R91). -/
def cw48 (opc : BitVec 8) (np : Bool) (arg : Word32) : CmdWord :=
  opc ++ 0#7 ++ BitVec.ofBool np ++ arg

/-- The number of bytes of a command: 6, plus `ARG` when `OPC` is 0x30 or 0x31 (R92). -/
def commandLength (w : CmdWord) : Nat :=
  if opcField w = 0x30#8 ∨ opcField w = 0x31#8 then 6 + (argField w).toNat else 6

/-! ## Decoding -/

/-- Why a word is no command: the two port-independent grounds of R105. (The wrong port and the
absent capability are found at acceptance.) -/
inductive DecodeReject where
  /-- `RSV` is not zero. -/
  | reservedBits
  /-- `OPC` is none of the twenty values of R93. -/
  | unknownOpcode
  deriving DecidableEq, Repr

/-- The numeric operand a word carries (R100): `NP = 1` means "no number", then `ARG` is ignored. -/
def operandOf (np : Bool) (arg : Word32) : Operand :=
  if np then .notParsed else .number arg

/-- The opcode map of R93. `payload` is what follows the word; a transfer takes `ARG` bytes (R92). -/
def decodeOpc (opc : BitVec 8) (np : Bool) (arg : Word32) (payload : List Byte) :
    Except DecodeReject Instr :=
  if opc = 0x00#8 then .ok .getBootp
  else if opc = 0x01#8 then .ok .getStat
  else if opc = 0x02#8 then .ok .getDipsw
  else if opc = 0x03#8 then .ok .getFfe
  else if opc = 0x04#8 then .ok .getFff
  else if opc = 0x10#8 then .ok (.setBootp (operandOf np arg))
  else if opc = 0x11#8 then .ok (.setStat (operandOf np arg))
  else if opc = 0x12#8 then .ok (.setDipsw (operandOf np arg))
  else if opc = 0x13#8 then .ok (.setFfe (operandOf np arg))
  else if opc = 0x14#8 then .ok (.setFff (operandOf np arg))
  else if opc = 0x20#8 then .ok .rdA
  else if opc = 0x21#8 then .ok .rdB
  else if opc = 0x30#8 then .ok (.xferA arg (payload.take arg.toNat))
  else if opc = 0x31#8 then .ok (.xferB arg (payload.take arg.toNat))
  else if opc = 0x40#8 then .ok .getBufsize
  else if opc = 0x41#8 then .ok .getZeropage
  else if opc = 0x50#8 then .ok (.reset (operandOf np arg))
  else if opc = 0x60#8 then .ok .irqSvc
  else if opc = 0x70#8 then .ok (.attach (arg.getLsbD 0) (arg.getLsbD 1))
  else if opc = 0x71#8 then .ok .detach
  else .error .unknownOpcode

/-- The verdict on a word and its payload (R94, R105): `RSV` first, then the opcode map. -/
def decode (w : CmdWord) (payload : List Byte) : Except DecodeReject Instr :=
  if rsvField w = 0#7 then decodeOpc (opcField w) (npField w) (argField w) payload
  else .error .reservedBits

/-! ## Encoding -/

/-- The opcode of a command (R93). -/
def Instr.opc : Instr → BitVec 8
  | .getBootp => 0x00#8
  | .getStat => 0x01#8
  | .getDipsw => 0x02#8
  | .getFfe => 0x03#8
  | .getFff => 0x04#8
  | .setBootp _ => 0x10#8
  | .setStat _ => 0x11#8
  | .setDipsw _ => 0x12#8
  | .setFfe _ => 0x13#8
  | .setFff _ => 0x14#8
  | .rdA => 0x20#8
  | .rdB => 0x21#8
  | .xferA _ _ => 0x30#8
  | .xferB _ _ => 0x31#8
  | .getBufsize => 0x40#8
  | .getZeropage => 0x41#8
  | .reset _ => 0x50#8
  | .irqSvc => 0x60#8
  | .attach _ _ => 0x70#8
  | .detach => 0x71#8

/-- The word of a command with a numeric operand (R100); the ignored `ARG` of "no number" is 0. -/
def encodeOperand (opc : BitVec 8) : Operand → CmdWord
  | .notParsed => cw48 opc true 0#32
  | .number arg => cw48 opc false arg

/-- The word of a command (R91, R93, R106). Ignored fields are written as 0. -/
def encodeWord (i : Instr) : CmdWord :=
  match i with
  | .setBootp v => encodeOperand i.opc v
  | .setStat v => encodeOperand i.opc v
  | .setDipsw v => encodeOperand i.opc v
  | .setFfe v => encodeOperand i.opc v
  | .setFff v => encodeOperand i.opc v
  | .reset v => encodeOperand i.opc v
  | .xferA len _ => cw48 i.opc false len
  | .xferB len _ => cw48 i.opc false len
  | .attach m q => cw48 i.opc false (0#30 ++ BitVec.ofBool q ++ BitVec.ofBool m)
  | .getBootp => cw48 i.opc false 0#32
  | .getStat => cw48 i.opc false 0#32
  | .getDipsw => cw48 i.opc false 0#32
  | .getFfe => cw48 i.opc false 0#32
  | .getFff => cw48 i.opc false 0#32
  | .rdA => cw48 i.opc false 0#32
  | .rdB => cw48 i.opc false 0#32
  | .getBufsize => cw48 i.opc false 0#32
  | .getZeropage => cw48 i.opc false 0#32
  | .irqSvc => cw48 i.opc false 0#32
  | .detach => cw48 i.opc false 0#32

/-- The payload that follows the word (R92): only a transfer has one. -/
def encodePayload (i : Instr) : List Byte :=
  match i with
  | .xferA _ data => data
  | .xferB _ data => data
  | .getBootp => []
  | .getStat => []
  | .getDipsw => []
  | .getFfe => []
  | .getFff => []
  | .setBootp _ => []
  | .setStat _ => []
  | .setDipsw _ => []
  | .setFfe _ => []
  | .setFff _ => []
  | .rdA => []
  | .rdB => []
  | .getBufsize => []
  | .getZeropage => []
  | .reset _ => []
  | .irqSvc => []
  | .attach _ _ => []
  | .detach => []

/-- A well-formed command as it is offered: its word and its payload. -/
def encode (i : Instr) : CmdWord × List Byte := (encodeWord i, encodePayload i)

/-! ## The table's words -/

/-- The word whose bits are the low `nbits` of `w`, numbered as the opcode table numbers them. -/
def tableWord (nbits w : Nat) : CmdWord := BitVec.ofNat 48 (w % 2 ^ nbits)

/-- A payload of `ARG` zero bytes after a transfer's word, none after any other (R92). -/
def zeroPayload (w : CmdWord) : List Byte :=
  if opcField w = 0x30#8 ∨ opcField w = 0x31#8 then List.replicate (argField w).toNat 0#8 else []

/-- The command the decoder reads from a table word followed by zeros. -/
def decodeTableWord (nbits w : Nat) : Option Instr :=
  match decode (tableWord nbits w) (zeroPayload (tableWord nbits w)) with
  | .ok i => some i
  | .error _ => none

end Sys2Proof
end

