-- ==== Sys2Proof/Machine/State.lean ====
section
/-!
DEFINITION. The state of one board (10_state.md R20 to R49) as plain data, its value at instantiation
(R48), and the reasons a step can stop.
-/
namespace Sys2Proof.Machine

/-! ## The sequencer's phases -/

/-- The sequencer state `pc` (10_state.md R42): one of 31 phases, and nothing else. -/
inductive Phase where
  | idle
  | gRd
  | sWr
  | zp
  | rb
  | xbPreRd
  | xbPreWr
  | xData
  | xBell
  | xSt1
  | xSt2
  | xNudge
  | rsZa
  | rsZb
  | rsSettle
  | rsRun
  | rsStRd
  | rsStWr
  | rsStA0
  | iqPre
  | iqRd
  | iqWr
  | iqPost
  | atMap
  | atIrq
  | atUnwind
  | atDipsw
  | atSurf
  | dtSurf
  | dtIrq
  | dtMap
  deriving DecidableEq, Repr

/-! ## What is seen from outside -/

/-- One event of the trace (00_scope.md R13): an access's kind, its offset, and the data written or
returned. -/
inductive BusEvent where
  | rd8 (off : Offset) (v : Byte)
  | wr8 (off : Offset) (v : Byte)
  | rd32 (off : Offset) (v : Word32)
  | wr32 (off : Offset) (v : Word32)
  deriving DecidableEq, Repr

/-- The status of a response (30_encoding.md R96). -/
inductive Status where
  | ok
  | einval
  | eres
  | handled
  deriving DecidableEq, Repr

/-- The status code of R96. -/
def Status.code : Status → Byte
  | .ok => 0x00#8
  | .einval => 0x01#8
  | .eres => 0x02#8
  | .handled => 0x03#8

/-- The cause of a response (R96). -/
inductive Cause where
  | none
  | notDecimal
  | outOfRange
  | badLength
  | illegal
  | mapFail
  | irqFail
  deriving DecidableEq, Repr

/-- The cause code of R96. -/
def Cause.code : Cause → Byte
  | .none => 0x00#8
  | .notDecimal => 0x01#8
  | .outOfRange => 0x02#8
  | .badLength => 0x03#8
  | .illegal => 0x04#8
  | .mapFail => 0x05#8
  | .irqFail => 0x06#8

/-- A response delivered on a port (R96). -/
structure Response where
  port : Port
  status : Status
  cause : Cause
  data : List Byte
  deriving DecidableEq, Repr

/-! ## What the agents outside the block do -/

/-- An offered command: its word, and the payload that follows it (R45, R92). -/
structure Request where
  word : CmdWord
  payload : List Byte
  deriving DecidableEq, Repr

/-- One turn of the run (00_scope.md R14): the engine's, with the arbiter's choice should it accept;
a target step (20_memory.md R75); or an offer on a port (R45). -/
inductive Turn where
  | engine (pick : Nat)
  | target (writes : List (Offset × Byte)) (irq : Bool)
  | offer (port : Port) (req : Request)
  deriving DecidableEq, Repr

/-! ## The state -/

/-- The register window `W` (10_state.md R21): the (offset, byte) cells that differ from what an
unlisted offset reads as, offsets strictly rising. The operations are in Machine/Ops.lean. -/
abbrev Memory := List Host.Cell

/-- The state of one board (R20). -/
structure State where
  /-- The open parameters of R9; no step writes them. -/
  params : Params
  /-- The register window (R21 to R33). -/
  mem : Memory
  /-- The sequencer state (R42). -/
  pc : Phase
  /-- The byte of a read-modify-write of `stat`, or the value of a `SET_x` (R36). -/
  tmp : Byte
  /-- The byte index into a buffer or the zero page, 0 to 1019 (R37). -/
  idx : BitVec 10
  /-- The settling-loop iteration, 0 to 29999 (R37). -/
  iter : BitVec 15
  /-- The access within one iteration or one diagnostic record, 0 to 2 (R37). -/
  sub : BitVec 2
  /-- The register of a `GET_x` or `SET_x` (R38). -/
  sel : Reg
  /-- The channel of a buffer command (R38). -/
  ch : Channel
  /-- The port the running command came from and its response goes to (R38). -/
  owner : Port
  /-- The payload of a transfer, or the bytes a read command collects (R39). -/
  stage : Vector Byte 1020
  /-- The diagnostic record of the last interrupt service (R41). -/
  diag : Vector Byte 6
  /-- Whether the diagnostic output has a value: not before the first `IRQ_SVC` (R48). -/
  diagValid : Bool
  /-- `MAP_OK` of the running `ATTACH` (R106, R191), captured at acceptance. -/
  mapOk : Bool
  /-- `IRQ_OK` of the running `ATTACH` (R106, R191), captured at acceptance. -/
  irqOk : Bool
  /-- The framework has handed over the window mapping (R44). -/
  mapped : Bool
  /-- The interrupt line is bound to the handler (R44). -/
  irqBound : Bool
  /-- The attribute surface is registered (R44). -/
  surface : Bool
  /-- The requests offered on the command port and not yet accepted (R45). -/
  cmdReqs : List Request
  /-- The request offered on the interrupt port (R45). -/
  irqReq : Option Request
  /-- The request offered on the lifecycle port (R45). -/
  lifeReq : Option Request
  /-- Every bus access so far, oldest first (00_scope.md R13). -/
  trace : List BusEvent
  /-- Every response so far, oldest first (R96). -/
  responses : List Response
  /-- The board's interrupt line (R46): set by the target, read by no step of the engine. -/
  irqIn : Bool
  /-- What the agents outside the engine do next, oldest first (log entry 7). -/
  turns : List Turn
  /-- How many free choices the arbiter has made (log entry 8). -/
  draws : Nat
  deriving DecidableEq, Repr

/-- The state at instantiation (R48): `pc = IDLE`, the lifecycle flags 0, nothing offered, the trace
empty. What R48 leaves unspecified holds a value log entries 3, 4 and 5 name; the statements that
say what holds at instantiation quantify over every such value (`State.AtInstantiation`). -/
def State.reset : State where
  params := { hasZeropage := true, dipswInit := 0x00#8, targetReadOnly := [] }
  mem := []
  pc := .idle
  tmp := 0#8
  idx := 0#10
  iter := 0#15
  sub := 0#2
  sel := .bootp
  ch := .a
  owner := .cmd
  stage := Vector.replicate 1020 0#8
  diag := Vector.replicate 6 0#8
  diagValid := false
  mapOk := false
  irqOk := false
  mapped := false
  irqBound := false
  surface := false
  cmdReqs := []
  irqReq := none
  lifeReq := none
  trace := []
  responses := []
  irqIn := false
  turns := []
  draws := 0

/-! ## Reasons to stop -/

/-- Why the machine stops. No run of the spec's machine reaches one of these (R67, R204): each says
what the model does in states the spec says never occur. -/
inductive Fault where
  /-- Raised by the bus primitives when `mapped = 0` (20_memory.md R60 allows no access then). Safe. -/
  | busUnmapped
  /-- Raised by a loop phase whose `idx`, `iter` or `sub` is outside the range of R37 and R40. Safe. -/
  | counterRange
  /-- Raised at the end of the reset sequence when `owner` is `IRQ`, for which R169 gives no
  continuation. Safe. -/
  | resetOwner
  deriving DecidableEq, Repr

/-- Why the machine gives an instruction no meaning. -/
inductive Refusal where
  /-- Raised by an arm of `exec` whose instruction has no meaning yet. Safe. -/
  | notModelled (mnemonic : String)
  /-- Raised by `XFER_A` and `XFER_B` when `ARG` is 1020 and the payload that came with the word has
  another number of bytes, which R92 excludes by construction. Safe. -/
  | payloadMismatch
  /-- Raised by the 32-bit bus primitives at an offset that is no multiple of 4: the bus port refuses
  (20_memory.md R66); no command reaches it. Safe. -/
  | busAlignment
  deriving DecidableEq, Repr

end Sys2Proof.Machine
end

