-- ==== Sys2Proof/Machine/Ops.lean ====
section
/-!
DEFINITION. The named operations over the window and the engine registers: the canonical memory
(10_state.md R21), the four bus primitives (20_memory.md R61 to R64), the response (00_scope.md R12),
the two ways a command ends without its effect (60_exceptions.md R201, R203), and the counters.
-/
namespace Sys2Proof.Machine

/-- What a step, a phase or a command's acceptance answers. -/
abbrev Result := Host.Outcome State Fault Refusal

/-! ## Memory -/

/-- What an offset that no cell lists reads as (DESIGN CHOICE, log entry 4: R33 gives no value; every
statement quantifies over the whole window). -/
def unlisted : Byte := 0x00#8

/-- The byte at an offset. -/
def Memory.read : Memory → Nat → Byte
  | [], _ => unlisted
  | c :: m, a => if c.1 = a then c.2 else Memory.read m a

/-- Put a byte at an offset: the offset's cell is replaced, and left out when the byte is what an
unlisted offset reads as. -/
def Memory.write : Memory → Nat → Byte → Memory
  | [], a, v => if v = unlisted then [] else [(a, v)]
  | c :: m, a, v =>
    if c.1 < a then c :: Memory.write m a v
    else if c.1 = a then (if v = unlisted then m else (a, v) :: m)
    else (if v = unlisted then c :: m else (a, v) :: c :: m)

/-- The canonical form: offsets of the window, strictly rising, none listed with the byte an unlisted
offset reads as. -/
abbrev Memory.wf (m : Memory) : Prop :=
  m.Pairwise (fun c d => c.1 < d.1) ∧ ∀ c ∈ m, c.1 < Config.windowSize ∧ c.2 ≠ unlisted

/-! ## Sequencing -/

/-- Do `f` with what `o` answers; a fault or a refusal stands. -/
def andThen {α β : Type} (o : Host.Outcome α Fault Refusal)
    (f : α → Host.Outcome β Fault Refusal) : Host.Outcome β Fault Refusal :=
  match o with
  | .next a => f a
  | .fault r => .fault r
  | .refused r => .refused r

/-! ## Updates of the state -/

/-- `pc <- p` (R11). -/
def State.goto (s : State) (p : Phase) : State := { s with pc := p }

/-- Append one event to the trace (R13). -/
def State.emit (s : State) (e : BusEvent) : State := { s with trace := s.trace ++ [e] }

/-- The byte the window holds at an offset, `W[off]` (R11). -/
def State.byteAt (s : State) (off : Offset) : Byte := s.mem.read off.toNat

/-- `W[off] <- v`. -/
def State.store (s : State) (off : Offset) (v : Byte) : State :=
  { s with mem := s.mem.write off.toNat v }

/-- `respond(status, data)` with its cause (R12, R96): the response goes to the port in `owner`, and
`pc` becomes `IDLE`. -/
def State.respond (s : State) (st : Status) (c : Cause) (data : List Byte) : State :=
  { s with responses := s.responses ++ [⟨s.owner, st, c, data⟩], pc := .idle }

/-- `raise Invalid(cause)` (R201): the response `EINVAL`; nothing else but `pc`, which is `IDLE`. -/
def State.raiseInvalid (s : State) (c : Cause) : State := s.respond .einval c []

/-- `raise Resource(cause)` (R203): the response `ERES`, all lifecycle flags 0. -/
def State.raiseResource (s : State) (c : Cause) : State :=
  { s with mapped := false, irqBound := false, surface := false }.respond .eres c []

/-! ## The bus port -/

/-- `MemRead(off, 1)`, the access `RD8` (R61). -/
def rd8 (off : Offset) (s : State) : Host.Outcome (Byte × State) Fault Refusal :=
  if s.mapped then .next (s.byteAt off, s.emit (.rd8 off (s.byteAt off)))
  else .fault .busUnmapped

/-- `MemWrite(off, 1, v)`, the access `WR8` (R62). -/
def wr8 (off : Offset) (v : Byte) (s : State) : Result :=
  if s.mapped then .next ((s.store off v).emit (.wr8 off v))
  else .fault .busUnmapped

/-- The 32-bit value at an offset, in the byte order of R65 (little-endian). -/
def State.wordAt (s : State) (off : Offset) : Word32 :=
  s.byteAt (off + 3) ++ s.byteAt (off + 2) ++ s.byteAt (off + 1) ++ s.byteAt off

/-- The four bytes of a 32-bit value stored in the byte order of R65. -/
def State.storeWord (s : State) (off : Offset) (v : Word32) : State :=
  (((s.store off (v.extractLsb' 0 8)).store (off + 1) (v.extractLsb' 8 8)).store
    (off + 2) (v.extractLsb' 16 8)).store (off + 3) (v.extractLsb' 24 8)

/-- The bus port takes a 32-bit access only at a multiple of 4 (R63, R64, R66). -/
def aligned32 (off : Offset) : Bool := off.toNat % 4 = 0

/-- `MemRead(off, 4)`, the access `RD32` (R63); no sequence of the engine issues it. -/
def rd32 (off : Offset) (s : State) : Host.Outcome (Word32 × State) Fault Refusal :=
  if s.mapped then
    if aligned32 off then .next (s.wordAt off, s.emit (.rd32 off (s.wordAt off)))
    else .refused .busAlignment
  else .fault .busUnmapped

/-- `MemWrite(off, 4, v)`, the access `WR32` (R64): four bytes, one event. -/
def wr32 (off : Offset) (v : Word32) (s : State) : Result :=
  if s.mapped then
    if aligned32 off then .next ((s.storeWord off v).emit (.wr32 off v))
    else .refused .busAlignment
  else .fault .busUnmapped

/-! ## Counters and stage -/

/-- The byte index of a loop, which R37 and R40 keep in 0 to 1019. -/
def withIdx (s : State) (f : Fin 1020 → Result) : Result :=
  if h : s.idx.toNat < 1020 then f ⟨s.idx.toNat, h⟩ else .fault .counterRange

/-- The end of a loop over a buffer: at 1019 go on, otherwise `idx <- idx + 1` and stay (R40). -/
def State.nextIdx (s : State) (atEnd : State → State) : State :=
  if s.idx = 1019#10 then atEnd s else { s with idx := s.idx + 1 }

/-- `stage[i] <- v` (R39). -/
def State.putStage (s : State) (i : Fin 1020) (v : Byte) : State :=
  { s with stage := s.stage.set i.val v i.isLt }

/-- `diag[k] <- v` (R41). -/
def State.putDiag (s : State) (k : Fin 6) (v : Byte) : State :=
  { s with diag := s.diag.set k.val v k.isLt }

/-- The offset of the byte `idx` of a buffer whose base is `base`. -/
def State.idxOffset (s : State) (base : Offset) : Offset := base + s.idx.setWidth 12

/-- The diagnostic output (R41): no value before the first `IRQ_SVC` (R48; log entry 15). No `DETACH`
takes the value away (DESIGN CHOICE, log entry 26). -/
def State.diagOutput (s : State) : Option (Vector Byte 6) :=
  if s.diagValid then some s.diag else none

end Sys2Proof.Machine
end

