-- ==== Sys2Proof/Machine/Operands.lean ====
section
/-!
DEFINITION. The operand forms and their validation at acceptance (30_encoding.md R100 to R103), and the
front end that turns attribute text into an operand (R100, R110).
-/
namespace Sys2Proof.Machine

/-! ## Validation -/

/-- The byte operand of the `SET_x` commands, checked in the order of R101. -/
def byteOperand : Operand → Except Cause Byte
  | .notParsed => .error .notDecimal
  | .number arg => if 255 < arg.toNat then .error .outOfRange else .ok (arg.setWidth 8)

/-- The operand of `RESET`, checked in the order of R102: the ground for a rejection, if any. -/
def resetOperand : Operand → Option Cause
  | .notParsed => some .notDecimal
  | .number arg => if arg = 1#32 then none else some .outOfRange

/-- The length operand of a transfer (R103): the ground for a rejection, if any. -/
def lengthOperand (len : Word32) : Option Cause :=
  if len.toNat = Config.bufSize then none else some .badLength

/-! ## The front end (R100, R110) -/

/-- The value of one decimal digit. -/
def digitValue (c : Char) : Option Nat :=
  if '0'.toNat ≤ c.toNat ∧ c.toNat ≤ '9'.toNat then some (c.toNat - '0'.toNat) else none

/-- The number that digits denote after the digits read so far, whose value is `acc`. -/
def decimalFrom (acc : Nat) : List Char → Option Nat
  | [] => some acc
  | c :: cs =>
    match digitValue c with
    | some d => decimalFrom (10 * acc + d) cs
    | none => none

/-- The default `DECIMAL_GRAMMAR` (R9, R110): one or more characters `0` to `9` and nothing else. -/
def parseDecimal : DecimalGrammar
  | [] => none
  | c :: cs => decimalFrom 0 (c :: cs)

/-- The operand the front end hands the block for the text written to an attribute (R100), under a
`DECIMAL_GRAMMAR`: "no number", or the number saturated at 0xFFFFFFFF. -/
def frontEndOperand (grammar : DecimalGrammar) (text : List Char) : Operand :=
  match grammar text with
  | none => .notParsed
  | some n => .number (BitVec.ofNat 32 (min n 0xFFFFFFFF))

/-- The request the front end offers for a text written to a numeric attribute (R100, R93), `command`
being the attribute's command: a `SET_x` or `RESET`. -/
def frontEndRequest (grammar : DecimalGrammar) (command : Operand → Instr) (text : List Char) :
    Request :=
  ⟨encodeWord (command (frontEndOperand grammar text)),
    encodePayload (command (frontEndOperand grammar text))⟩

end Sys2Proof.Machine
end

