-- ==== Sys2Proof/Machine/Flags.lean ====
section
/-!
DEFINITION. The flags rules read or write (10_state.md R47) and the masks the sequences apply to `stat`
(00_scope.md R8).
-/
namespace Sys2Proof.Machine

/-- `stat` bit 2, tested on a byte read from `stat` (41_buffer_transfer.md R147). -/
def statBit2Set (v : Byte) : Bool := v.getLsbD 2

/-- What the channel-B pre-clear writes for a byte read (R144): bits 7 and 5 kept. -/
def preClearValue (v : Byte) : Byte := v &&& Config.statBKeep

/-- What the nudge writes for the byte of the second read (R147): bit 2 set. -/
def nudgeValue (v : Byte) : Byte := v ||| Config.statBit2

/-- What reset step 4 writes for a byte read (42_reset_sequencer.md R167). -/
def resetStatValue (v : Byte) : Byte := (v &&& Config.statHigh) ||| Config.statBit2

/-- What the interrupt acknowledge writes for a byte read (43_interrupt_service.md R183): bits 3 to 0
kept, bits 7 to 4 cleared. -/
def ackValue (v : Byte) : Byte := v &&& Config.statLow

/-- The RUN flag, `bootp` bit 0 (R22); no rule of the engine reads it (R47). -/
def State.runFlag (s : State) : Bool := (s.byteAt Config.offBootp).getLsbD 0

/-- The mode selector, `dipsw` bit 3 (R24); no rule of the engine reads it (R47). -/
def State.modeSelector (s : State) : Bool := (s.byteAt Config.offDipsw).getLsbD 3

/-- The engine is busy exactly when `pc` is not `IDLE` (R42). -/
def State.busy (s : State) : Bool := s.pc != .idle

end Sys2Proof.Machine
end

