-- ==== Sys2Proof/Machine/RegisterAccess.lean ====
section
/-!
DEFINITION. Single-register access, the buffer-size constant and the zero-page dump
(40_register_access.md R120 to R135): acceptance of each command, and the phases `G_RD`, `S_WR`, `ZP`.
-/
namespace Sys2Proof.Machine

/-! ## Acceptance -/

/-- Acceptance of a `GET_x` (R121 to R125): `sel <- r; pc <- G_RD`. -/
def acceptGet (r : Reg) (s : State) : Result := .next { s with sel := r, pc := .gRd }

/-- Acceptance of a `SET_x` (R127 to R131): validate by R101, then `sel <- r; tmp <- v; pc <- S_WR`. -/
def acceptSet (r : Reg) (v : Operand) (s : State) : Result :=
  match byteOperand v with
  | .error c => .next (s.raiseInvalid c)
  | .ok b => .next { s with sel := r, tmp := b, pc := .sWr }

/-- `GET_BOOTP` (R121). -/
def execGetBootp (s : State) : Result := acceptGet .bootp s
/-- `GET_STAT` (R122). -/
def execGetStat (s : State) : Result := acceptGet .stat s
/-- `GET_DIPSW` (R123). -/
def execGetDipsw (s : State) : Result := acceptGet .dipsw s
/-- `GET_FFE` (R124). -/
def execGetFfe (s : State) : Result := acceptGet .ffe s
/-- `GET_FFF` (R125). -/
def execGetFff (s : State) : Result := acceptGet .fff s

/-- `SET_BOOTP` (R127). -/
def execSetBootp (v : Operand) (s : State) : Result := acceptSet .bootp v s
/-- `SET_STAT` (R128). -/
def execSetStat (v : Operand) (s : State) : Result := acceptSet .stat v s
/-- `SET_DIPSW` (R129). -/
def execSetDipsw (v : Operand) (s : State) : Result := acceptSet .dipsw v s
/-- `SET_FFE` (R130). -/
def execSetFfe (v : Operand) (s : State) : Result := acceptSet .ffe v s
/-- `SET_FFF` (R131). -/
def execSetFff (v : Operand) (s : State) : Result := acceptSet .fff v s

/-- The data of `GET_BUFSIZE`: the number 1020, low byte first (R132, 30_encoding.md R96). -/
def bufSizeData : List Byte := [0xFC#8, 0x03#8]

/-- `GET_BUFSIZE` (R132): answered at acceptance, no bus access. -/
def execGetBufsize (s : State) : Result := .next (s.respond .ok .none bufSizeData)

/-- `GET_ZEROPAGE` (R134): illegal without the capability, else `idx <- 0; pc <- ZP`. -/
def execGetZeropage (s : State) : Result :=
  if s.params.hasZeropage then .next { s with idx := 0#10, pc := .zp }
  else .next (s.raiseInvalid .illegal)

/-! ## Phases -/

/-- The step at `G_RD` (R120): one `RD8`, answered with the byte. -/
def phaseGRd (s : State) : Result :=
  andThen (rd8 s.sel.offset s) fun r => .next (r.2.respond .ok .none [r.1])

/-- The step at `S_WR` (R126): one `WR8` of `tmp`. -/
def phaseSWr (s : State) : Result :=
  andThen (wr8 s.sel.offset s.tmp s) fun t => .next (t.respond .ok .none [])

/-- One `RD8` at `base + idx` into `stage[idx]`; after index 1019 the 1020 bytes are the answer. The
loop body of R133 and R150. -/
def readLoop (base : Offset) (s : State) : Result :=
  withIdx s fun i =>
    andThen (rd8 (s.idxOffset base) s) fun r =>
      .next ((r.2.putStage i r.1).nextIdx fun t => t.respond .ok .none t.stage.toList)

/-- The step at `ZP` (R133). -/
def phaseZp (s : State) : Result := readLoop 0x000#12 s

end Sys2Proof.Machine
end

