-- ==== Sys2Proof/Machine/BufferTransfer.lean ====
section
/-!
DEFINITION. The buffer transfer engine (41_buffer_transfer.md R140 to R154): acceptance of `XFER_A`,
`XFER_B`, `RD_A`, `RD_B`, and the phases `XB_PRE_RD` to `X_NUDGE` and `RB`.
-/
namespace Sys2Proof.Machine

/-! ## Acceptance -/

/-- Size check and capture (R143): the length first; then the whole payload goes into `stage[]`,
`ch` and `idx` are set, and the sequence begins at `first`. -/
def acceptXfer (c : Channel) (first : Phase) (len : Word32) (data : List Byte) (s : State) : Result :=
  match lengthOperand len with
  | some cause => .next (s.raiseInvalid cause)
  | none =>
    if h : data.toArray.size = 1020 then
      .next { s with ch := c, stage := ⟨data.toArray, h⟩, idx := 0#10, pc := first }
    else .refused .payloadMismatch

/-- `XFER_A` (R141): channel A has no pre-clear. -/
def execXferA (len : Word32) (data : List Byte) (s : State) : Result :=
  acceptXfer .a .xData len data s

/-- `XFER_B` (R142): begins with the pre-clear of `stat`. -/
def execXferB (len : Word32) (data : List Byte) (s : State) : Result :=
  acceptXfer .b .xbPreRd len data s

/-- Acceptance of a buffer read (R149, R151): `ch <- c; idx <- 0; pc <- RB`. -/
def acceptRead (c : Channel) (s : State) : Result :=
  .next { s with ch := c, idx := 0#10, pc := .rb }

/-- `RD_A` (R149). -/
def execRdA (s : State) : Result := acceptRead .a s
/-- `RD_B` (R151). -/
def execRdB (s : State) : Result := acceptRead .b s

/-! ## Phases -/

/-- `tmp <- MemRead(stat)`, then `next`: the read half of each read-modify-write of `stat`. -/
def readStat (s : State) (next : State → State) : Result :=
  andThen (rd8 Config.offStat s) fun r => .next (next { r.2 with tmp := r.1 })

/-- The step at `RB` (R150). -/
def phaseRb (s : State) : Result := readLoop s.ch.base s

/-- The step at `XB_PRE_RD` (R144). -/
def phaseXbPreRd (s : State) : Result := readStat s fun t => t.goto .xbPreWr

/-- The step at `XB_PRE_WR` (R144): the write happens always. -/
def phaseXbPreWr (s : State) : Result :=
  andThen (wr8 Config.offStat (preClearValue s.tmp) s) fun t => .next (t.goto .xData)

/-- The step at `X_DATA` (R145): one `WR8` of `stage[idx]` at `base(ch) + idx`. -/
def phaseXData (s : State) : Result :=
  withIdx s fun i =>
    andThen (wr8 (s.idxOffset s.ch.base) (s.stage.get i) s) fun t =>
      .next (t.nextIdx fun u => u.goto .xBell)

/-- The step at `X_BELL` (R146): the doorbell. -/
def phaseXBell (s : State) : Result :=
  andThen (wr8 Config.offFff Config.doorbellVal s) fun t => .next (t.goto .xSt1)

/-- The step at `X_ST1` (R147): the first read; bit 2 of it decides whether the nudge runs. -/
def phaseXSt1 (s : State) : Result :=
  readStat s fun t => if statBit2Set t.tmp then t.goto .xSt2 else t.respond .ok .none []

/-- The step at `X_ST2` (R147): the second read, a separate access. -/
def phaseXSt2 (s : State) : Result := readStat s fun t => t.goto .xNudge

/-- The step at `X_NUDGE` (R147): the second read with bit 2 set is written back. -/
def phaseXNudge (s : State) : Result :=
  andThen (wr8 Config.offStat (nudgeValue s.tmp) s) fun t => .next (t.respond .ok .none [])

end Sys2Proof.Machine
end

