-- ==== Sys2Proof/Machine/ResetSequencer.lean ====
section
/-!
DEFINITION. The reset sequencer (42_reset_sequencer.md R160 to R173): acceptance of `RESET` and the
seven phases `RS_ZA` to `RS_ST_A0`, which `ATTACH` runs too.
-/
namespace Sys2Proof.Machine

/-- The entry of the sequence (R162): `idx <- 0; pc <- RS_ZA`, nothing else. -/
def State.enterReset (s : State) : State := { s with idx := 0#10, pc := .rsZa }

/-- `RESET` (R161): the operand check of R102, then the sequence. -/
def execReset (n : Operand) (s : State) : Result :=
  match resetOperand n with
  | some c => .next (s.raiseInvalid c)
  | none => .next s.enterReset

/-- One `WR8` of zero at `base + idx` of a buffer (R163, R164). -/
def zeroLoop (base : Offset) (atEnd : State → State) (s : State) : Result :=
  withIdx s fun _ =>
    andThen (wr8 (s.idxOffset base) 0x00#8 s) fun t => .next (t.nextIdx atEnd)

/-- The step at `RS_ZA` (R163). -/
def phaseRsZa (s : State) : Result :=
  zeroLoop Config.offBufA (fun t => { t with idx := 0#10, pc := .rsZb }) s

/-- The step at `RS_ZB` (R164). -/
def phaseRsZb (s : State) : Result :=
  zeroLoop Config.offBufB (fun t => { t with iter := 0#15, sub := 0#2, pc := .rsSettle }) s

/-- The end of one settling iteration (R165): after 29999 go on, otherwise count. -/
def State.nextIter (s : State) : State :=
  if s.iter = 29999#15 then s.goto .rsRun else { s with iter := s.iter + 1, sub := 0#2 }

/-- The step at `RS_SETTLE` (R165): `bootp`, then the first word of buffer B, then of buffer A. -/
def phaseRsSettle (s : State) : Result :=
  if s.iter.toNat < Config.settleIters then
    if s.sub = 0#2 then
      andThen (wr8 Config.offBootp 0x00#8 s) fun t => .next { t with sub := 1#2 }
    else if s.sub = 1#2 then
      andThen (wr32 Config.offBufB 0#32 s) fun t => .next { t with sub := 2#2 }
    else if s.sub = 2#2 then
      andThen (wr32 Config.offBufA 0#32 s) fun t => .next t.nextIter
    else .fault .counterRange
  else .fault .counterRange

/-- The step at `RS_RUN` (R166): the whole byte is written with RUN. -/
def phaseRsRun (s : State) : Result :=
  andThen (wr8 Config.offBootp Config.bootpRun s) fun t => .next (t.goto .rsStRd)

/-- The step at `RS_ST_RD` (R167), the only read of the sequence. -/
def phaseRsStRd (s : State) : Result := readStat s fun t => t.goto .rsStWr

/-- The step at `RS_ST_WR` (R167). -/
def phaseRsStWr (s : State) : Result :=
  andThen (wr8 Config.offStat (resetStatValue s.tmp) s) fun t => .next (t.goto .rsStA0)

/-- Completion of the sequence (R169): a `RESET` answers; inside `ATTACH` the engine goes on. -/
def finishReset (s : State) : Result :=
  match s.owner with
  | .cmd => .next (s.respond .ok .none [])
  | .life => .next (s.goto .atSurf)
  | .irq => .fault .resetOwner

/-- The step at `RS_ST_A0` (R168), with the completion of R169. -/
def phaseRsStA0 (s : State) : Result :=
  andThen (wr8 Config.offStat Config.statBKeep s) finishReset

end Sys2Proof.Machine
end

