-- ==== Sys2Proof/Machine/InterruptService.lean ====
section
/-!
DEFINITION. The interrupt service (43_interrupt_service.md R180 to R188): acceptance of `IRQ_SVC`, which
saves nothing and switches nothing (60_exceptions.md R210), and the phases `IQ_PRE` to `IQ_POST`.
-/
namespace Sys2Proof.Machine

/-- `IRQ_SVC` (R180, R181): `owner <- IRQ; sub <- 0; pc <- IQ_PRE`. -/
def execIrqSvc (s : State) : Result :=
  .next { s with owner := .irq, sub := 0#2, pc := .iqPre }

/-- One `RD8` into `diag[k]`, then `next`: a line of R182 and R184. -/
def recordDiag (off : Offset) (k : Fin 6) (next : State → State) (s : State) : Result :=
  andThen (rd8 off s) fun r => .next (next (r.2.putDiag k r.1))

/-- The step at `IQ_PRE` (R182): the record before the acknowledge. -/
def phaseIqPre (s : State) : Result :=
  if s.sub = 0#2 then recordDiag Config.offBootp 0 (fun t => { t with sub := 1#2 }) s
  else if s.sub = 1#2 then recordDiag Config.offStat 1 (fun t => { t with sub := 2#2 }) s
  else if s.sub = 2#2 then
    recordDiag Config.offDipsw 2 (fun t => { t with sub := 0#2, pc := .iqRd }) s
  else .fault .counterRange

/-- The step at `IQ_RD` (R183): a read of its own, `diag[1]` is not reused. -/
def phaseIqRd (s : State) : Result := readStat s fun t => t.goto .iqWr

/-- The step at `IQ_WR` (R183): the acknowledge. -/
def phaseIqWr (s : State) : Result :=
  andThen (wr8 Config.offStat (ackValue s.tmp) s) fun t =>
    .next { t with sub := 0#2, pc := .iqPost }

/-- Completion (R185): always `HANDLED`. The diagnostic record now has a value (R48). -/
def State.finishIrq (s : State) : State := { s with diagValid := true }.respond .handled .none []

/-- The step at `IQ_POST` (R184): the record after the acknowledge. -/
def phaseIqPost (s : State) : Result :=
  if s.sub = 0#2 then recordDiag Config.offBootp 3 (fun t => { t with sub := 1#2 }) s
  else if s.sub = 1#2 then recordDiag Config.offStat 4 (fun t => { t with sub := 2#2 }) s
  else if s.sub = 2#2 then recordDiag Config.offDipsw 5 State.finishIrq s
  else .fault .counterRange

end Sys2Proof.Machine
end

