-- ==== Sys2Proof/Machine/Lifecycle.lean ====
section
/-!
DEFINITION. Attach and detach (44_lifecycle.md R190 to R194): acceptance of `ATTACH` and `DETACH`, and
the phases `AT_MAP` to `AT_SURF` and `DT_SURF` to `DT_MAP`.
-/
namespace Sys2Proof.Machine

/-- `ATTACH` (R191): `owner <- LIFE; pc <- AT_MAP`, the framework's two answers captured. -/
def execAttach (mapOk irqOk : Bool) (s : State) : Result :=
  .next { s with owner := .life, mapOk := mapOk, irqOk := irqOk, pc := .atMap }

/-- `DETACH` (R193): `owner <- LIFE; pc <- DT_SURF`. -/
def execDetach (s : State) : Result := .next { s with owner := .life, pc := .dtSurf }

/-- The step at `AT_MAP` (R191): acquire the mapping, or fail with nothing acquired. -/
def phaseAtMap (s : State) : Result :=
  if s.mapOk then .next { s with mapped := true, pc := .atIrq }
  else .next (s.raiseResource .mapFail)

/-- The step at `AT_IRQ` (R191): acquire the interrupt binding, or unwind. -/
def phaseAtIrq (s : State) : Result :=
  if s.irqOk then .next { s with irqBound := true, pc := .atDipsw }
  else .next (s.goto .atUnwind)

/-- The step at `AT_UNWIND` (R191, R192): release the mapping and report. -/
def phaseAtUnwind (s : State) : Result :=
  .next ({ s with mapped := false }.raiseResource .irqFail)

/-- The step at `AT_DIPSW` (R191): the dipsw-mode write, then the reset sequence. -/
def phaseAtDipsw (s : State) : Result :=
  andThen (wr8 Config.offDipsw s.params.dipswInit s) fun t => .next t.enterReset

/-- The step at `AT_SURF` (R191): open the command port and answer. -/
def phaseAtSurf (s : State) : Result := .next ({ s with surface := true }.respond .ok .none [])

/-- The step at `DT_SURF` (R193): unregister the attribute surface. The requests still offered on the
command port are dropped with the session (log entry 10). -/
def phaseDtSurf (s : State) : Result :=
  .next { s with surface := false, cmdReqs := [], pc := .dtIrq }

/-- The step at `DT_IRQ` (R193): release the interrupt binding, with the request offered there. -/
def phaseDtIrq (s : State) : Result :=
  .next { s with irqBound := false, irqReq := none, pc := .dtMap }

/-- The step at `DT_MAP` (R193): release the mapping and answer. `diag[]` and `diagValid` stay, so a
diagnostic output that has a value keeps it after `DETACH` and in the next session (DESIGN CHOICE, log
entry 26: R193 and R48 leave that open). -/
def phaseDtMap (s : State) : Result := .next ({ s with mapped := false }.respond .ok .none [])

end Sys2Proof.Machine
end

