-- ==== Sys2Proof/Machine/Dispatch.lean ====
section
/-!
DEFINITION. What acceptance of each legal command does (60_exceptions.md R208): one arm per constructor.
-/
namespace Sys2Proof.Machine

def exec (i : Instr) (s : State) : Host.Outcome State Fault Refusal :=
  match i with
  | .getBootp => Sys2Proof.Machine.execGetBootp s
  | .getStat => Sys2Proof.Machine.execGetStat s
  | .getDipsw => Sys2Proof.Machine.execGetDipsw s
  | .getFfe => Sys2Proof.Machine.execGetFfe s
  | .getFff => Sys2Proof.Machine.execGetFff s
  | .setBootp v => Sys2Proof.Machine.execSetBootp v s
  | .setStat v => Sys2Proof.Machine.execSetStat v s
  | .setDipsw v => Sys2Proof.Machine.execSetDipsw v s
  | .setFfe v => Sys2Proof.Machine.execSetFfe v s
  | .setFff v => Sys2Proof.Machine.execSetFff v s
  | .rdA => Sys2Proof.Machine.execRdA s
  | .rdB => Sys2Proof.Machine.execRdB s
  | .xferA len data => Sys2Proof.Machine.execXferA len data s
  | .xferB len data => Sys2Proof.Machine.execXferB len data s
  | .getBufsize => Sys2Proof.Machine.execGetBufsize s
  | .getZeropage => Sys2Proof.Machine.execGetZeropage s
  | .reset n => Sys2Proof.Machine.execReset n s
  | .irqSvc => Sys2Proof.Machine.execIrqSvc s
  | .attach m q => Sys2Proof.Machine.execAttach m q s
  | .detach => Sys2Proof.Machine.execDetach s

end Sys2Proof.Machine
end

