-- ==== Sys2Proof/Machine/Engine.lean ====
section
/-!
DEFINITION. The engine's steps: the step at each phase (10_state.md R42, R43), the port gates
(60_exceptions.md R207), acceptance (R208) and the arbiter (R209).
-/
namespace Sys2Proof.Machine

/-! ## Port gates -/

/-- The gate of a request on the lifecycle port (R207): `ATTACH` needs `mapped = 0`, `DETACH` needs
`surface = 1`; the port itself is always open (R95), so a word that is neither is at an open gate. -/
def lifeGate (s : State) (r : Request) : Bool :=
  match decode r.word r.payload with
  | .ok (.attach _ _) => !s.mapped
  | .ok .detach => s.surface
  | _ => true

/-- The gate of a request on a port (R95, R207). -/
def gateOpen (s : State) (p : Port) (r : Request) : Bool :=
  match p with
  | .cmd => s.surface
  | .irq => s.irqBound
  | .life => lifeGate s r

/-- An offered request the arbiter may choose: which entry of the command port's multiset, or the
request on one of the other two ports. -/
inductive Offered where
  | cmd (k : Nat)
  | irq
  | life
  deriving DecidableEq, Repr

/-- The port of an offered request. -/
def offeredPort : Offered → Port
  | .cmd _ => .cmd
  | .irq => .irq
  | .life => .life

/-- The request an entry stands for, if it is there. -/
def offeredRequest (s : State) : Offered → Option Request
  | .cmd k => s.cmdReqs[k]?
  | .irq => s.irqReq
  | .life => s.lifeReq

/-- The request is removed from its port (R208). -/
def removeOffered (s : State) : Offered → State
  | .cmd k => { s with cmdReqs := s.cmdReqs.eraseIdx k }
  | .irq => { s with irqReq := none }
  | .life => { s with lifeReq := none }

/-- Whether an entry stands for a request whose gate is open. -/
def acceptable (s : State) (o : Offered) : Bool :=
  match offeredRequest s o with
  | some r => gateOpen s (offeredPort o) r
  | none => false

/-- Every request that may be accepted at `IDLE` (R207, R208). -/
def candidates (s : State) : List Offered :=
  ((List.range s.cmdReqs.length).map Offered.cmd ++ [Offered.irq, Offered.life]).filter (acceptable s)

/-! ## Acceptance -/

/-- What acceptance does with a request that is no longer on its port (R208): decode the word,
reject it as illegal when it is none or belongs to another port (30_encoding.md R105), else do what
the command's rule says. -/
def acceptRequest (p : Port) (r : Request) (s : State) : Result :=
  match decode r.word r.payload with
  | .error _ => .next (s.raiseInvalid .illegal)
  | .ok i => if i.port = p then exec i s else .next (s.raiseInvalid .illegal)

/-- Acceptance of an offered request, one step (R208): off its port, `owner` set to the port. -/
def accept (s : State) (o : Offered) : Result :=
  match offeredRequest s o with
  | some r => acceptRequest (offeredPort o) r { removeOffered s o with owner := offeredPort o }
  | none => .next s

/-- The arbiter (R209): nothing acceptable, the engine stays idle; one request, it is accepted; of
several, the one that `pick` names, or a free choice when the run names none. With something
acceptable the engine's turn accepts and never stays, so progress is built in past the end of `turns`
(DESIGN CHOICE, log entry 27: R208 says "may take", R42 "accept a request, or stay"). The free choice is
one constant for every board, so boards with equal `draws` draw the same number (DESIGN CHOICE, log
entry 28: R215 and R209 leave `ARB_POLICY` open for each board on its own). -/
def arbitrate (pick : Option Nat) (s : State) : Result :=
  match candidates s with
  | [] => .next s
  | [c] => accept s c
  | c :: d :: cs =>
    match pick with
    | some k => accept s ((c :: d :: cs).getD (k % (cs.length + 2)) c)
    | none =>
      accept { s with draws := s.draws + 1 }
        ((c :: d :: cs).getD (Config.arbPick s.draws % (cs.length + 2)) c)

/-! ## The step at each phase -/

/-- The step of a busy engine, chosen by `pc` (R42). -/
def phaseStep (s : State) : Result :=
  match s.pc with
  | .idle => .next s
  | .gRd => phaseGRd s
  | .sWr => phaseSWr s
  | .zp => phaseZp s
  | .rb => phaseRb s
  | .xbPreRd => phaseXbPreRd s
  | .xbPreWr => phaseXbPreWr s
  | .xData => phaseXData s
  | .xBell => phaseXBell s
  | .xSt1 => phaseXSt1 s
  | .xSt2 => phaseXSt2 s
  | .xNudge => phaseXNudge s
  | .rsZa => phaseRsZa s
  | .rsZb => phaseRsZb s
  | .rsSettle => phaseRsSettle s
  | .rsRun => phaseRsRun s
  | .rsStRd => phaseRsStRd s
  | .rsStWr => phaseRsStWr s
  | .rsStA0 => phaseRsStA0 s
  | .iqPre => phaseIqPre s
  | .iqRd => phaseIqRd s
  | .iqWr => phaseIqWr s
  | .iqPost => phaseIqPost s
  | .atMap => phaseAtMap s
  | .atIrq => phaseAtIrq s
  | .atUnwind => phaseAtUnwind s
  | .atDipsw => phaseAtDipsw s
  | .atSurf => phaseAtSurf s
  | .dtSurf => phaseDtSurf s
  | .dtIrq => phaseDtIrq s
  | .dtMap => phaseDtMap s

/-- One engine step (R42, R208): at `IDLE` the arbiter, otherwise the phase. -/
def engineStep (pick : Option Nat) (s : State) : Result :=
  if s.pc = .idle then arbitrate pick s else phaseStep s

end Sys2Proof.Machine
end

