-- ==== Sys2Proof/Machine/Environment.lean ====
section
/-!
DEFINITION. The steps of the agents outside the engine: the target (20_memory.md R75), the offers of
callers, interrupt subsystem and framework (10_state.md R45, 60_exceptions.md R206, R207, R214), and
how a table word comes to be the next command accepted.
-/
namespace Sys2Proof.Machine

/-! ## The target -/

/-- `TARGET_WRITABLE` (00_scope.md R9). -/
def targetWritable (p : Params) (off : Offset) : Bool := !p.targetReadOnly.contains off

/-- One byte the target writes; an offset outside `TARGET_WRITABLE` keeps its byte. -/
def targetWrite (p : Params) (m : Memory) (w : Offset × Byte) : Memory :=
  if targetWritable p w.1 then m.write w.1.toNat w.2 else m

/-- A target step (R75): any bytes of the window it may write, and the interrupt line. It is no bus
access of the engine and no event of the trace. -/
def targetStep (writes : List (Offset × Byte)) (irq : Bool) (s : State) : State :=
  { s with mem := writes.foldl (targetWrite s.params) s.mem, irqIn := irq }

/-! ## Offers -/

/-- Whether the lifecycle port can take an offer: it holds at most one request (R45). A request that
has no step (engine idle, gate closed: R207) gives way, since nothing of it can be seen. -/
def lifeSlotFree (s : State) : Bool :=
  match s.lifeReq with
  | none => true
  | some r => s.pc == .idle && !lifeGate s r

/-- An offer on a port (R45). On `CMD` and `IRQ` it is taken when the port is open (R207); at most one
request stands on `IRQ`, a further one is not remembered (R211). On `LIFE` it is taken when the slot
is free and the request is held (the engine is busy, R208) or its gate is open. An offer that is not
taken leaves no trace: it has no step and no response. -/
def offerOn (p : Port) (r : Request) (s : State) : State :=
  match p with
  | .cmd => if s.surface then { s with cmdReqs := s.cmdReqs ++ [r] } else s
  | .irq => if s.irqBound && s.irqReq.isNone then { s with irqReq := some r } else s
  | .life =>
    if lifeSlotFree s && (s.busy || lifeGate s r) then { s with lifeReq := some r } else s

/-! ## One turn -/

/-- The next turn of the run (00_scope.md R14): the agent that `turns` names, and the engine once the
list is used up (the quiescent target of 20_memory.md R76, and nobody offers). -/
def takeTurn (s : State) : Result :=
  match s.turns with
  | [] => engineStep none s
  | .engine k :: rest => engineStep (some k) { s with turns := rest }
  | .target writes irq :: rest => .next (targetStep writes irq { s with turns := rest })
  | .offer p r :: rest => .next (offerOn p r { s with turns := rest })

/-! ## Placing a command -/

/-- The port a word is offered on when the model places it: the port of the command it decodes to,
`CMD` for a word that is none. -/
def portOfWord (w : CmdWord) : Port :=
  match decode w [] with
  | .ok i => i.port
  | .error _ => .cmd

/-- The flags under which a word's gate is open (R207): none set for `ATTACH`, all three for every
other command, as they are in a session that is not, or is, attached. -/
def gateFlag (w : CmdWord) : Bool :=
  match decode w [] with
  | .ok (.attach _ _) => false
  | _ => true

/-- The state in which the word, followed by a payload of zeros, is the one request offered, its gate
is open and the engine is idle with no other turn due (log entry 17). -/
def placeWord (s : State) (w : CmdWord) : State :=
  let r : Request := ⟨w, zeroPayload w⟩
  { s with
    pc := .idle
    turns := []
    mapped := gateFlag w
    irqBound := gateFlag w
    surface := gateFlag w
    cmdReqs := if portOfWord w = .cmd then [r] else []
    irqReq := if portOfWord w = .irq then some r else none
    lifeReq := if portOfWord w = .life then some r else none }

end Sys2Proof.Machine
end

