-- ==== Sys2Proof/Machine/Step.lean ====
section
/-!
DEFINITION. One step of the board: the next turn of the run (00_scope.md R14).
-/
namespace Sys2Proof.Machine

/-- One step: at most one bus access (00_scope.md R7). -/
def step (s : State) : Host.Outcome State Fault Refusal := takeTurn s

/-- The table word placed where the next step accepts it (log entry 17). -/
def State.withFetchWord (s : State) (nbits w : Nat) : State := placeWord s (tableWord nbits w)

end Sys2Proof.Machine
end

