-- ==== Sys2Proof/Machine/Boards.lean ====
section
/-!
DEFINITION. Several boards (60_exceptions.md R215, decision D20): one whole instance of the state per
board, `N_BOARDS` of them. `step` is the step of one instance; the machine behind the host's interface
(Machine/Core.lean) is the default, `N_BOARDS` = 1 (log entry 18).
-/
namespace Sys2Proof.Machine

/-- The state of `nBoards` boards, `N_BOARDS` of 00_scope.md R9: an instance of the whole state for each,
with its own parameters, window, trace and turns. The free value `Config.arbPick` is the one thing they
have in common (DESIGN CHOICE, log entry 28). -/
abbrev Boards (nBoards : Nat) := Vector State nBoards

/-- Every board right after its instantiation. -/
def Boards.reset (nBoards : Nat) : Boards nBoards := Vector.replicate nBoards State.reset

/-- The default of R9: one board. -/
def Boards.single (s : State) : Boards 1 := Vector.replicate 1 s

variable {nBoards : Nat}

/-- One step of board `k`: its instance steps, and every other instance stays (R215). -/
def boardsStep (k : Fin nBoards) (b : Boards nBoards) :
    Host.Outcome (Boards nBoards) Fault Refusal :=
  andThen (step (b.get k)) fun t => .next (b.set k.val t k.isLt)

/-- A run of several boards: which board steps next, in any order. R215 asks for no synchronization
between boards, so no order is ruled out. -/
def boardsRun : List (Fin nBoards) → Boards nBoards → Host.Outcome (Boards nBoards) Fault Refusal
  | [], b => .next b
  | k :: ks, b => andThen (boardsStep k b) (boardsRun ks)

end Sys2Proof.Machine
end

