-- ==== Sys2Proof/Safety.lean ====
section
/-!
DEFINITION. The terms claims use: a run of several steps, the invariant every step keeps, the states the
spec allows at instantiation (10_state.md R48), and the trace shapes of the sequences.
-/
namespace Sys2Proof.Machine

/-! ## Runs -/

/-- `n` steps, stopping at the first fault or refusal. -/
def run : Nat → State → Result
  | 0, s => .next s
  | n + 1, s => andThen (step s) (run n)

/-- A command accepted and then `n` steps of its sequence. -/
def runCommand (n : Nat) (i : Instr) (s : State) : Result := andThen (exec i s) (run n)

/-- Nothing but the engine moves: the quiescent target of 20_memory.md R76, and nobody offers. -/
def State.Quiet (s : State) : Prop := s.turns = []

/-! ## The invariant -/

/-- A request as the front end builds it: the payload has the length its word tells (R92). -/
def Request.wellFormed (r : Request) : Bool := r.payload.length + 6 == commandLength r.word

/-- An offer offers a request as the front end builds it. -/
def Turn.wellFormed : Turn → Bool
  | .offer _ r => r.wellFormed
  | .engine _ => true
  | .target _ _ => true

/-- The lifecycle flags a phase runs under, `mapped`, `irq_bound`, `surface` in this order (10_state.md
R44, 44_lifecycle.md R191, R193): at `IDLE` all or none; inside `ATTACH` and `DETACH` those acquired so
far; in the reset sequence the surface is open exactly for a `RESET`; elsewhere all three. -/
def flagsFit (s : State) : Prop :=
  match s.pc with
  | .idle => s.irqBound = s.mapped ∧ s.surface = s.mapped
  | .atMap => s.mapped = false ∧ s.irqBound = false ∧ s.surface = false
  | .atIrq | .atUnwind => s.mapped = true ∧ s.irqBound = false ∧ s.surface = false
  | .atDipsw | .atSurf => s.mapped = true ∧ s.irqBound = true ∧ s.surface = false
  | .rsZa | .rsZb | .rsSettle | .rsRun | .rsStRd | .rsStWr | .rsStA0 =>
    s.mapped = true ∧ s.irqBound = true ∧ s.surface = decide (s.owner = .cmd)
  | .dtIrq => s.mapped = true ∧ s.irqBound = true ∧ s.surface = false
  | .dtMap => s.mapped = true ∧ s.irqBound = false ∧ s.surface = false
  | _ => s.mapped = true ∧ s.irqBound = true ∧ s.surface = true

/-- The port a phase's command came from (10_state.md R42); the reset sequence runs for `CMD` and
`LIFE` (42_reset_sequencer.md R169). -/
def ownerFits (s : State) : Prop :=
  match s.pc with
  | .idle => True
  | .rsZa | .rsZb | .rsSettle | .rsRun | .rsStRd | .rsStWr | .rsStA0 => s.owner ≠ .irq
  | .iqPre | .iqRd | .iqWr | .iqPost => s.owner = .irq
  | .atMap | .atIrq | .atUnwind | .atDipsw | .atSurf => s.owner = .life
  | .dtSurf | .dtIrq | .dtMap => s.owner = .life
  | _ => s.owner = .cmd

/-- The counter ranges of 10_state.md R40, in the loops that use them and in the pre-clear, which runs
between the capture that sets `idx` and its loop (R143, R144). -/
def countersFit (s : State) : Prop :=
  match s.pc with
  | .zp | .rb | .xbPreRd | .xbPreWr | .xData | .rsZa | .rsZb => s.idx.toNat < Config.bufSize
  | .rsSettle => s.iter.toNat < Config.settleIters ∧ s.sub.toNat < 3
  | .iqPre | .iqPost => s.sub.toNat < 3
  | _ => True

/-- What holds in every state the board can be in. -/
structure Inv (s : State) : Prop where
  /-- The window is in canonical form. -/
  memory : s.mem.wf
  /-- R44. -/
  flags : flagsFit s
  /-- R38, R208. -/
  owner : ownerFits s
  /-- R40. -/
  counters : countersFit s
  /-- A request stands on `CMD` or `IRQ` only while the port is open (R193, R207). -/
  cmdPort : s.cmdReqs ≠ [] → s.surface = true
  irqPort : s.irqReq ≠ none → s.irqBound = true
  /-- Every request, offered or still to be offered, is as the front end builds it (R92). -/
  cmdReqs : ∀ r ∈ s.cmdReqs, r.wellFormed = true
  irqReq : ∀ r ∈ s.irqReq, r.wellFormed = true
  lifeReq : ∀ r ∈ s.lifeReq, r.wellFormed = true
  turns : ∀ t ∈ s.turns, t.wellFormed = true

/-! ## Instantiation -/

/-- The states R48 allows at instantiation: everything it states, and any value for everything it
leaves unspecified (the window, the working registers, the diagnostic record, the parameters). -/
structure State.AtInstantiation (s : State) : Prop where
  memory : s.mem.wf
  pc : s.pc = .idle
  mapped : s.mapped = false
  irqBound : s.irqBound = false
  surface : s.surface = false
  cmdReqs : s.cmdReqs = []
  irqReq : s.irqReq = none
  lifeReq : s.lifeReq = none
  trace : s.trace = []
  responses : s.responses = []
  diagValid : s.diagValid = false

/-! ## Offsets and blocks -/

/-- The offset of byte `i` of a block at `base`. -/
def blockOffset (base : Offset) (i : Nat) : Offset := base + BitVec.ofNat 12 i

/-- The 1020 bytes of the window from `base` on, index 0 first. -/
def State.block (s : State) (base : Offset) : List Byte :=
  (List.range Config.bufSize).map fun i => s.byteAt (blockOffset base i)

/-- The offsets of a buffer channel (10_state.md R25, R26). -/
def inBuffer (c : Channel) (off : Offset) : Prop :=
  c.base.toNat ≤ off.toNat ∧ off.toNat < c.base.toNat + Config.bufSize

/-- The three holes of the window (10_state.md R29, R30). -/
def isHole (off : Offset) : Prop :=
  (0x003 ≤ off.toNat ∧ off.toNat ≤ 0x7FF) ∨ (0xBFC ≤ off.toNat ∧ off.toNat ≤ 0xBFF) ∨
    (0xFFC ≤ off.toNat ∧ off.toNat ≤ 0xFFD)

/-! ## Trace shapes -/

/-- `RD8` of the 1020 offsets from `base` on, ascending, returning `data` (R133, R150). -/
def readEvents (base : Offset) (data : List Byte) : List BusEvent :=
  data.mapIdx fun i v => .rd8 (blockOffset base i) v

/-- `WR8` of `data` to the offsets from `base` on, ascending (R145, R163, R164). -/
def writeEvents (base : Offset) (data : List Byte) : List BusEvent :=
  data.mapIdx fun i v => .wr8 (blockOffset base i) v

/-- One iteration of the settling loop (42_reset_sequencer.md R165): `bootp`, then B, then A. -/
def settleEvents : List BusEvent :=
  [.wr8 Config.offBootp 0x00#8, .wr32 Config.offBufB 0#32, .wr32 Config.offBufA 0#32]

/-- The 92,044 events of the reset sequence when `stat` holds `v` at `RS_ST_RD` (R172). -/
def resetEvents (v : Byte) : List BusEvent :=
  writeEvents Config.offBufA (List.replicate Config.bufSize 0x00#8) ++
  writeEvents Config.offBufB (List.replicate Config.bufSize 0x00#8) ++
  (List.replicate Config.settleIters settleEvents).flatten ++
  [.wr8 Config.offBootp 0x01#8, .rd8 Config.offStat v,
    .wr8 Config.offStat ((v &&& 0xF0#8) ||| 0x04#8), .wr8 Config.offStat 0xA0#8]

/-- The last two or four events of a transfer when `stat` holds `v` under a quiescent target (R146,
R147): the doorbell, the read, and the nudge when bit 2 was set. -/
def tailEvents (v : Byte) : List BusEvent :=
  [.wr8 Config.offFff 0x01#8, .rd8 Config.offStat v] ++
  if v.getLsbD 2 then [.rd8 Config.offStat v, .wr8 Config.offStat (v ||| 0x04#8)] else []

/-- How many steps the nudge adds to a transfer whose first read of `stat` returned `v` (R154). -/
def nudgeSteps (v : Byte) : Nat := if v.getLsbD 2 then 2 else 0

/-- What a window access does to a byte of the window, as the trace event says it (10_state.md R31): a
read changes nothing, a write stores exactly its bytes. -/
def eventByte (e : BusEvent) (off : Offset) (old : Byte) : Byte :=
  match e with
  | .rd8 _ _ => old
  | .rd32 _ _ => old
  | .wr8 o v => if off = o then v else old
  | .wr32 o v =>
    if off = o then v.extractLsb' 0 8
    else if off = o + 1 then v.extractLsb' 8 8
    else if off = o + 2 then v.extractLsb' 16 8
    else if off = o + 3 then v.extractLsb' 24 8
    else old

/-- The kind and the offset of an event, without its data (R171, R187). -/
inductive EventShape where
  | rd8 (off : Offset)
  | wr8 (off : Offset)
  | rd32 (off : Offset)
  | wr32 (off : Offset)
  deriving DecidableEq, Repr

/-- The shape of an event. -/
def eventShape : BusEvent → EventShape
  | .rd8 off _ => .rd8 off
  | .wr8 off _ => .wr8 off
  | .rd32 off _ => .rd32 off
  | .wr32 off _ => .wr32 off

/-- A response without its data: the port, the status and the cause (R96). -/
def responseShape (r : Response) : Port × Status × Cause := (r.port, r.status, r.cause)

/-- A bound on the engine steps from a phase to `IDLE` (10_state.md R42, R43), the longest way through
the phases, none at `IDLE`. -/
def stepsLeft (s : State) : Nat :=
  match s.pc with
  | .idle => 0
  | .gRd | .sWr | .xNudge | .atUnwind | .atSurf | .dtMap => 1
  | .zp | .rb => 1020 - s.idx.toNat
  | .xbPreRd => 1026 - s.idx.toNat
  | .xbPreWr => 1025 - s.idx.toNat
  | .xData => 1024 - s.idx.toNat
  | .xBell => 4
  | .xSt1 => 3
  | .xSt2 | .rsStA0 | .dtIrq => 2
  | .rsZa => 92045 - s.idx.toNat
  | .rsZb => 91025 - s.idx.toNat
  | .rsSettle => 90005 - 3 * s.iter.toNat - s.sub.toNat
  | .rsRun => 5
  | .rsStRd => 4
  | .rsStWr | .dtSurf => 3
  | .iqPre => 8 - s.sub.toNat
  | .iqRd => 5
  | .iqWr => 4
  | .iqPost => 3 - s.sub.toNat
  | .atMap => 92048
  | .atIrq => 92047
  | .atDipsw => 92046

/-- The twenty opcodes of 30_encoding.md R93. -/
def allOpcodes : List (BitVec 8) :=
  [0x00#8, 0x01#8, 0x02#8, 0x03#8, 0x04#8, 0x10#8, 0x11#8, 0x12#8, 0x13#8, 0x14#8,
    0x20#8, 0x21#8, 0x30#8, 0x31#8, 0x40#8, 0x41#8, 0x50#8, 0x60#8, 0x70#8, 0x71#8]

/-- The opcodes of the commands that have no operand (R106). -/
def operandFree : List (BitVec 8) :=
  [0x00#8, 0x01#8, 0x02#8, 0x03#8, 0x04#8, 0x20#8, 0x21#8, 0x40#8, 0x41#8, 0x60#8, 0x71#8]

/-- The mask of every row of the opcode table: the `OPC` and `RSV` fields (R94). -/
def rowMask : CmdWord := 0xFFFE00000000#48

/-! ## Registers a rejection or a response leaves alone -/

/-- The state with a response delivered on port `p` and `pc` back at `IDLE` (00_scope.md R12). -/
def State.answered (s : State) (p : Port) (st : Status) (c : Cause) (data : List Byte) : State :=
  { s with responses := s.responses ++ [⟨p, st, c, data⟩], pc := .idle }

/-- The `GET_x` command of a register (30_encoding.md R93). -/
def getCommand : Reg → Instr
  | .bootp => .getBootp
  | .stat => .getStat
  | .dipsw => .getDipsw
  | .ffe => .getFfe
  | .fff => .getFff

/-- The `SET_x` command of a register (30_encoding.md R93). -/
def setCommand (r : Reg) (v : Operand) : Instr :=
  match r with
  | .bootp => .setBootp v
  | .stat => .setStat v
  | .dipsw => .setDipsw v
  | .ffe => .setFfe v
  | .fff => .setFff v

/-- The `RD_x` command of a channel (30_encoding.md R93). -/
def readCommand : Channel → Instr
  | .a => .rdA
  | .b => .rdB

/-- The `XFER_x` command of a channel (30_encoding.md R93). -/
def xferCommand (c : Channel) (len : Word32) (data : List Byte) : Instr :=
  match c with
  | .a => .xferA len data
  | .b => .xferB len data

end Sys2Proof.Machine
end

