-- ==== Sys2Proof/Certificates/Slice0/Obligations.lean ====
section
/-!
DEFINITION. The statements for the provers, from the numbered rules of the spec. Each docstring names the
rule or the section it formalises; a clause that rests on a choice of the model names the log entry.
-/
open Sys2Proof Sys2Proof.Machine

/-! ## Encoding -/

/-- 30_encoding.md R91 to R93, R100, R106: the decoder reads back every command the encoder writes. -/
def Obligations.DecodeOfEncodeIsTheCommand : Prop :=
  ∀ i : Instr, i.wellFormed = true → decode (encode i).1 (encode i).2 = .ok i

/-- 30_encoding.md R94: a word is some command exactly when its `OPC` and `RSV` bits are a row's, and
the command is then that row's. -/
def Obligations.DecodeSelectsTheMatchingRow : Prop :=
  ∀ (w : CmdWord) (p : List Byte),
    ((∃ i, decode w p = .ok i) ↔ ∃ o ∈ allOpcodes, w &&& rowMask = o.setWidth 48 <<< 40) ∧
    ∀ i, decode w p = .ok i → w &&& rowMask = i.opc.setWidth 48 <<< 40

/-- 30_encoding.md R106: operand-free commands ignore `NP` and `ARG`; `ATTACH` takes two bits of `ARG`. -/
def Obligations.UnusedFieldsAreIgnored : Prop :=
  (∀ o ∈ operandFree, ∀ (np : Bool) (arg : Word32) (p : List Byte),
    (∃ i, decode (cw48 o np arg) p = .ok i) ∧
      decode (cw48 o np arg) p = decode (cw48 o false 0#32) []) ∧
  ∀ (np : Bool) (arg : Word32) (p : List Byte),
    decode (cw48 0x70#8 np arg) p = .ok (.attach (arg.getLsbD 0) (arg.getLsbD 1))

/-- 30_encoding.md R92: the word alone tells the length of a well-formed command. -/
def Obligations.WordTellsCommandLength : Prop :=
  ∀ i : Instr, i.wellFormed = true →
    commandLength (encode i).1 = 6 + (encode i).2.length

/-- Words written out in 95_test_vectors.md (T2, T6, T14, T21, T30, T40, T50, T73) and one illegal word
of each kind (T60, T62): a sanity check of the decoder. -/
def Obligations.WordsOfTheSpecDecode : Prop :=
  decode 0x010000000000#48 [] = .ok .getStat ∧
  decode 0x0101DEADBEEF#48 [] = .ok .getStat ∧
  decode 0x1100000000A0#48 [] = .ok (.setStat (.number 160#32)) ∧
  decode 0x130100000005#48 [] = .ok (.setFfe .notParsed) ∧
  decode 0x3000000003FC#48 (List.replicate 1020 0x5A#8) =
    .ok (.xferA 1020#32 (List.replicate 1020 0x5A#8)) ∧
  decode 0x500000000001#48 [] = .ok (.reset (.number 1#32)) ∧
  decode 0x600000000000#48 [] = .ok .irqSvc ∧
  decode 0x700000000003#48 [] = .ok (.attach true true) ∧
  decode 0x050000000000#48 [] = .error .unknownOpcode ∧
  decode 0x100200000001#48 [] = .error .reservedBits

/-- 30_encoding.md R100, R110, 00_scope.md R9. Under every `DECIMAL_GRAMMAR`: a text that does not parse
gives "not parsed", one that does its number, saturated; the request offered for it is as the front end
builds requests, decodes to the attribute's command with that operand, and is the same under a grammar
that says the same of the text. Under the default grammar: digits give their number; leading zeroes do
not change it; anything else is "not parsed". -/
def Obligations.FrontEndParsesDecimals : Prop :=
  (∀ (grammar : DecimalGrammar) (text : List Char),
    (grammar text = none → frontEndOperand grammar text = .notParsed) ∧
    (∀ n, grammar text = some n →
      frontEndOperand grammar text = .number (BitVec.ofNat 32 (min n 0xFFFFFFFF))) ∧
    ∀ command, ((∃ r, command = setCommand r) ∨ command = Instr.reset) →
      (frontEndRequest grammar command text).wellFormed = true ∧
      decode (frontEndRequest grammar command text).word
          (frontEndRequest grammar command text).payload =
        .ok (command (frontEndOperand grammar text)) ∧
      ∀ grammar' : DecimalGrammar, grammar' text = grammar text →
        frontEndRequest grammar' command text = frontEndRequest grammar command text) ∧
  (∀ n : Nat, frontEndOperand parseDecimal (Nat.toDigits 10 n) =
    .number (BitVec.ofNat 32 (min n 0xFFFFFFFF))) ∧
  (∀ text : List Char, text ≠ [] →
    frontEndOperand parseDecimal ('0' :: text) = frontEndOperand parseDecimal text) ∧
  ∀ text : List Char, (text = [] ∨ ∃ c ∈ text, c < '0' ∨ '9' < c) →
    frontEndOperand parseDecimal text = .notParsed

/-! ## The bus port -/

/-- 20_memory.md R61, R62 and 10_state.md R31: a read returns the stored byte and changes only the trace;
a write stores its byte and changes no other. -/
def Obligations.ByteAccessIsPlainStorage : Prop :=
  ∀ (s : State) (off : Offset) (v : Byte), s.mapped = true → s.mem.wf →
    rd8 off s =
      .next (s.byteAt off, { s with trace := s.trace ++ [.rd8 off (s.byteAt off)] }) ∧
    ∃ t, wr8 off v s = .next t ∧
      t = { s with mem := t.mem, trace := s.trace ++ [.wr8 off v] } ∧
      t.byteAt off = v ∧ ∀ a, a ≠ off → t.byteAt a = s.byteAt a

/-- 20_memory.md R63 to R66: a 32-bit write stores four bytes, lowest first, as one event; a 32-bit read
assembles them so; both are refused at an offset that is no multiple of 4. -/
def Obligations.WordAccessIsLittleEndianAndAligned : Prop :=
  ∀ (s : State) (off : Offset) (v : Word32), s.mapped = true → s.mem.wf →
    (off.toNat % 4 = 0 →
      (∃ t, wr32 off v s = .next t ∧
        t = { s with mem := t.mem, trace := s.trace ++ [.wr32 off v] } ∧
        t.byteAt off = v.extractLsb' 0 8 ∧ t.byteAt (off + 1) = v.extractLsb' 8 8 ∧
        t.byteAt (off + 2) = v.extractLsb' 16 8 ∧ t.byteAt (off + 3) = v.extractLsb' 24 8 ∧
        (∀ a, a ≠ off → a ≠ off + 1 → a ≠ off + 2 → a ≠ off + 3 → t.byteAt a = s.byteAt a) ∧
        ∃ u, rd32 off t = .next (v, u)) ∧
      ∃ x, rd32 off s = .next (x, { s with trace := s.trace ++ [.rd32 off x] }) ∧
        x.extractLsb' 0 8 = s.byteAt off ∧ x.extractLsb' 8 8 = s.byteAt (off + 1) ∧
        x.extractLsb' 16 8 = s.byteAt (off + 2) ∧ x.extractLsb' 24 8 = s.byteAt (off + 3)) ∧
    (off.toNat % 4 ≠ 0 →
      wr32 off v s = .refused .busAlignment ∧ rd32 off s = .refused .busAlignment)

/-! ## Acceptance -/

/-- The request at the head of the run is accepted by doing what its command's meaning says, with the
request off its port and `owner` set to the port (60_exceptions.md R208). That the engine's turn accepts and does not stay is
log entry 27. -/
def Obligations.StepRunsTheDecodedCommand : Prop :=
  ∀ (s : State) (o : Offered) (r : Request) (i : Instr), s.Quiet → s.pc = .idle →
    candidates s = [o] → offeredRequest s o = some r → decode r.word r.payload = .ok i →
    i.port = offeredPort o →
      step s = exec i { removeOffered s o with owner := offeredPort o }

/-- 30_encoding.md R105: each of the four grounds on which a word is illegal is answered `EINVAL`,
`ILLEGAL`, and nothing but `owner`, the port and the responses changes. That the engine's turn accepts
the request and does not stay is log entry 27. -/
def Obligations.IllegalWordIsRejected : Prop :=
  ∀ (s : State) (o : Offered) (r : Request), s.Quiet → s.pc = .idle →
    candidates s = [o] → offeredRequest s o = some r →
    (rsvField r.word ≠ 0#7 ∨ opcField r.word ∉ allOpcodes ∨
      (∃ i, decode r.word r.payload = .ok i ∧ i.port ≠ offeredPort o) ∨
      (opcField r.word = 0x41#8 ∧ s.params.hasZeropage = false)) →
    step s = .next { removeOffered s o with
      owner := offeredPort o
      responses := s.responses ++ [⟨offeredPort o, .einval, .illegal, []⟩] }

/-- 30_encoding.md R101: the byte operand of the five `SET_x`, checked in this order. -/
def Obligations.ByteOperandIsValidated : Prop :=
  ∀ (r : Reg) (s : State),
    exec (setCommand r .notParsed) s = .next (s.answered s.owner .einval .notDecimal []) ∧
    ∀ arg : Word32,
      (255 < arg.toNat → exec (setCommand r (.number arg)) s =
        .next (s.answered s.owner .einval .outOfRange [])) ∧
      (arg.toNat ≤ 255 → exec (setCommand r (.number arg)) s =
        .next { s with sel := r, tmp := arg.setWidth 8, pc := .sWr })

/-- 30_encoding.md R102: the operand of `RESET`, checked in this order. -/
def Obligations.ResetOperandIsValidated : Prop :=
  ∀ s : State,
    exec (.reset .notParsed) s = .next (s.answered s.owner .einval .notDecimal []) ∧
    (∀ arg : Word32, arg ≠ 1#32 →
      exec (.reset (.number arg)) s = .next (s.answered s.owner .einval .outOfRange [])) ∧
    exec (.reset (.number 1#32)) s = .next { s with idx := 0#10, pc := .rsZa }

/-- 30_encoding.md R103, 41_buffer_transfer.md R143: a transfer of any length but 1020 is rejected, on
both channels, with nothing touched. -/
def Obligations.WrongLengthTransferIsRejected : Prop :=
  (∀ (c : Channel) (len : Word32) (data : List Byte) (s : State), len.toNat ≠ 1020 →
    exec (xferCommand c len data) s = .next (s.answered s.owner .einval .badLength [])) ∧
  ∀ (c : Channel) (np : Bool) (len : Word32) (p : List Byte),
    decode (cw48 (xferCommand c len []).opc np len) p =
      .ok (xferCommand c len (p.take len.toNat))

/-- 30_encoding.md R104, 60_exceptions.md R208: acceptance of any command issues no bus access and
leaves the window, the lifecycle flags, the ports and the diagnostic record alone. -/
def Obligations.AcceptanceTouchesOnlyWorkingRegisters : Prop :=
  ∀ (i : Instr) (s t : State), exec i s = .next t →
    t = { s with
      pc := t.pc, tmp := t.tmp, idx := t.idx, sub := t.sub, sel := t.sel, ch := t.ch
      owner := t.owner, stage := t.stage, mapOk := t.mapOk, irqOk := t.irqOk
      responses := t.responses }

/-- 60_exceptions.md R201, 30_encoding.md R104: a command that acceptance leaves at `IDLE` was rejected
with `EINVAL` and nothing else has changed; only `GET_BUFSIZE` ends there with its effect. -/
def Obligations.RejectionChangesNothingElse : Prop :=
  ∀ (i : Instr) (s t : State), exec i s = .next t → t.pc = .idle → i ≠ .getBufsize →
    ∃ c, t = s.answered s.owner .einval c []

/-- 60_exceptions.md R207: the gate of each request, and that a request whose gate is closed has no step:
with no other request offered the idle engine stays as it is. -/
def Obligations.ClosedGateHasNoStep : Prop :=
  (∀ (s : State) (r : Request),
    gateOpen s .cmd r = s.surface ∧ gateOpen s .irq r = s.irqBound ∧
    (∀ m q, decode r.word r.payload = .ok (.attach m q) → gateOpen s .life r = !s.mapped) ∧
    (decode r.word r.payload = .ok .detach → gateOpen s .life r = s.surface)) ∧
  ∀ s : State, s.Quiet → s.pc = .idle →
    (∀ o r, offeredRequest s o = some r → gateOpen s (offeredPort o) r = false) →
      step s = .next s

/-- 60_exceptions.md R209: at `IDLE` each offered request with an open gate may be the one accepted, and
an engine step accepts one of them whatever the choice. The second clause, that it does not stay, is the
model's choice, log entry 27 (R208 "may take"). -/
def Obligations.AnyOpenRequestMayBeAccepted : Prop :=
  ∀ s : State, s.pc = .idle →
    (∀ o r, offeredRequest s o = some r → gateOpen s (offeredPort o) r = true →
      ∃ k, engineStep (some k) s = accept s o) ∧
    ∀ pick, candidates s ≠ [] →
      ∃ o r d, offeredRequest s o = some r ∧ gateOpen s (offeredPort o) r = true ∧
        engineStep pick s = accept { s with draws := d } o

/-- 60_exceptions.md R208: while the engine is busy its steps accept nothing, whatever choice its turn
names: the requests stay on their ports (but those `DETACH` drops, 44_lifecycle.md R193, log entry 10)
and `owner` stays. -/
def Obligations.BusyEngineAcceptsNothing : Prop :=
  ∀ (s t : State) (pick : Option Nat), s.pc ≠ .idle → engineStep pick s = .next t →
    t.owner = s.owner ∧ t.lifeReq = s.lifeReq ∧
    (s.pc ≠ .dtSurf → t.cmdReqs = s.cmdReqs) ∧ (s.pc ≠ .dtIrq → t.irqReq = s.irqReq)

/-! ## Single registers -/

/-- 40_register_access.md R120: each `GET_x` is exactly one `RD8` of its register, answered with the byte
read; nothing in the window changes. -/
def Obligations.GetReadsItsRegister : Prop :=
  ∀ (r : Reg) (s : State), s.Quiet → s.mapped = true →
    exec (getCommand r) s = .next { s with sel := r, pc := .gRd } ∧
    run 1 { s with sel := r, pc := .gRd } = .next { s with
      sel := r
      pc := .idle
      trace := s.trace ++ [.rd8 r.offset (s.byteAt r.offset)]
      responses := s.responses ++ [⟨s.owner, .ok, .none, [s.byteAt r.offset]⟩] }

/-- 40_register_access.md R126: each accepted `SET_x` is exactly one `WR8` of its value to its register,
answered `OK`; no other byte changes. -/
def Obligations.SetWritesItsRegister : Prop :=
  ∀ (r : Reg) (arg : Word32) (s : State), s.Quiet → s.mapped = true → s.mem.wf →
    arg.toNat ≤ 255 →
    ∃ t u, exec (setCommand r (.number arg)) s = .next t ∧ run 1 t = .next u ∧
      u = { s with
        sel := r
        tmp := arg.setWidth 8
        pc := .idle
        mem := u.mem
        trace := s.trace ++ [.wr8 r.offset (arg.setWidth 8)]
        responses := s.responses ++ [⟨s.owner, .ok, .none, []⟩] } ∧
      u.byteAt r.offset = arg.setWidth 8 ∧ ∀ a, a ≠ r.offset → u.byteAt a = s.byteAt a

/-- 40_register_access.md R135: an accepted `SET_x v` then `GET_x` returns `v`; a rejected `SET_x` then
`GET_x` returns what the register held before. -/
def Obligations.GetReturnsWhatSetStored : Prop :=
  ∀ (r : Reg) (v : Operand) (s : State), s.Quiet → s.mapped = true → s.mem.wf →
    (∀ arg, v = .number arg → arg.toNat ≤ 255 →
      ∃ u w, runCommand 1 (setCommand r v) s = .next u ∧
        runCommand 1 (getCommand r) u = .next w ∧
        w.responses = s.responses ++
          [⟨s.owner, .ok, .none, []⟩, ⟨s.owner, .ok, .none, [arg.setWidth 8]⟩]) ∧
    ((v = .notParsed ∨ ∃ arg, v = .number arg ∧ 255 < arg.toNat) →
      ∃ c u w, runCommand 0 (setCommand r v) s = .next u ∧
        runCommand 1 (getCommand r) u = .next w ∧
        w.responses = s.responses ++
          [⟨s.owner, .einval, c, []⟩, ⟨s.owner, .ok, .none, [s.byteAt r.offset]⟩])

/-- 40_register_access.md R132: `GET_BUFSIZE` answers 1020, low byte first, at acceptance, whatever the
state. -/
def Obligations.BufferSizeIsConstant : Prop :=
  ∀ s : State, ∃ lo hi : Byte, lo.toNat + 256 * hi.toNat = 1020 ∧
    exec .getBufsize s = .next { s with
      pc := .idle
      responses := s.responses ++ [⟨s.owner, .ok, .none, [lo, hi]⟩] }

/-- 40_register_access.md R133, R134: the zero page is 1020 `RD8` of offsets 0 to 0x3FB, ascending, and
the answer is the bytes read; without the capability the command is illegal. -/
def Obligations.ZeroPageDumpsTheFirst1020Bytes : Prop :=
  ∀ s : State,
    (s.Quiet → s.mapped = true → s.params.hasZeropage = true →
      ∃ u, exec .getZeropage s = .next { s with idx := 0#10, pc := .zp } ∧
        run 1020 { s with idx := 0#10, pc := .zp } = .next u ∧
        u.stage.toList = s.block 0x000#12 ∧
        u = { s with
          idx := 1019#10
          stage := u.stage
          pc := .idle
          trace := s.trace ++ readEvents 0x000#12 (s.block 0x000#12)
          responses := s.responses ++ [⟨s.owner, .ok, .none, s.block 0x000#12⟩] }) ∧
    (s.params.hasZeropage = false →
      exec .getZeropage s = .next (s.answered s.owner .einval .illegal []))

/-! ## Buffers -/

/-- 41_buffer_transfer.md R149 to R151: `RD_A` and `RD_B` read the 1020 bytes of their buffer, one `RD8`
each, ascending, and answer them; nothing in the window changes. -/
def Obligations.BufferReadReturnsTheBuffer : Prop :=
  ∀ (c : Channel) (s : State), s.Quiet → s.mapped = true →
    ∃ u, exec (readCommand c) s = .next { s with ch := c, idx := 0#10, pc := .rb } ∧
      run 1020 { s with ch := c, idx := 0#10, pc := .rb } = .next u ∧
      u.stage.toList = s.block c.base ∧
      u = { s with
        ch := c
        idx := 1019#10
        stage := u.stage
        pc := .idle
        trace := s.trace ++ readEvents c.base (s.block c.base)
        responses := s.responses ++ [⟨s.owner, .ok, .none, s.block c.base⟩] }

/-- 41_buffer_transfer.md R145: the step at `X_DATA`. -/
def Obligations.DataStepWritesOneStagedByte : Prop :=
  ∀ (s : State) (h : s.idx.toNat < 1020), s.mapped = true → s.mem.wf → s.pc = .xData →
    ∃ t, phaseStep s = .next t ∧
      t = { s with
        mem := t.mem
        idx := if s.idx = 1019#10 then s.idx else s.idx + 1
        pc := if s.idx = 1019#10 then .xBell else .xData
        trace := s.trace ++
          [.wr8 (blockOffset s.ch.base s.idx.toNat) (s.stage.get ⟨s.idx.toNat, h⟩)] } ∧
      t.byteAt (blockOffset s.ch.base s.idx.toNat) = s.stage.get ⟨s.idx.toNat, h⟩ ∧
      ∀ a, a ≠ blockOffset s.ch.base s.idx.toNat → t.byteAt a = s.byteAt a

/-- 41_buffer_transfer.md R141: `XFER_A` with a 1020-byte payload, under a quiescent target: its trace, the
window, the registers and the answer; with the nudge when bit 2 of `stat` was set. -/
def Obligations.TransferOnChannelA : Prop :=
  ∀ (data : List Byte) (s : State), s.Quiet → s.mapped = true → s.mem.wf → data.length = 1020 →
    ∃ t u, exec (.xferA 1020#32 data) s = .next t ∧
      t = { s with ch := .a, stage := t.stage, idx := 0#10, pc := .xData } ∧
      t.stage.toList = data ∧
      run (1022 + nudgeSteps (s.byteAt Config.offStat)) t = .next u ∧
      u = { s with
        mem := u.mem
        tmp := s.byteAt Config.offStat
        idx := 1019#10
        ch := .a
        stage := t.stage
        pc := .idle
        trace := s.trace ++ writeEvents 0x800#12 data ++ tailEvents (s.byteAt Config.offStat)
        responses := s.responses ++ [⟨s.owner, .ok, .none, []⟩] } ∧
      u.block 0x800#12 = data ∧ u.byteAt 0xFFF#12 = 0x01#8 ∧
      ∀ a, ¬ inBuffer .a a → a ≠ 0xFFF#12 → u.byteAt a = s.byteAt a

/-- 41_buffer_transfer.md R142: `XFER_B` with a 1020-byte payload, under a quiescent target: the pre-clear
of `stat` first; then as `XFER_A`; the nudge never runs (R154). -/
def Obligations.TransferOnChannelB : Prop :=
  ∀ (data : List Byte) (s : State), s.Quiet → s.mapped = true → s.mem.wf → data.length = 1020 →
    ∃ t u, exec (.xferB 1020#32 data) s = .next t ∧
      t = { s with ch := .b, stage := t.stage, idx := 0#10, pc := .xbPreRd } ∧
      t.stage.toList = data ∧ run 1024 t = .next u ∧
      u = { s with
        mem := u.mem
        tmp := s.byteAt Config.offStat &&& 0xA0#8
        idx := 1019#10
        ch := .b
        stage := t.stage
        pc := .idle
        trace := s.trace ++
          [.rd8 0x001#12 (s.byteAt Config.offStat),
            .wr8 0x001#12 (s.byteAt Config.offStat &&& 0xA0#8)] ++
          writeEvents 0xC00#12 data ++
          [.wr8 0xFFF#12 0x01#8, .rd8 0x001#12 (s.byteAt Config.offStat &&& 0xA0#8)]
        responses := s.responses ++ [⟨s.owner, .ok, .none, []⟩] } ∧
      u.block 0xC00#12 = data ∧ u.byteAt 0xFFF#12 = 0x01#8 ∧
      u.byteAt 0x001#12 = s.byteAt Config.offStat &&& 0xA0#8 ∧
      ∀ a, ¬ inBuffer .b a → a ≠ 0xFFF#12 → a ≠ 0x001#12 → u.byteAt a = s.byteAt a

/-- 41_buffer_transfer.md R152: what a transfer wrote, a buffer read of the channel returns. -/
def Obligations.BufferReadReturnsWhatTransferWrote : Prop :=
  ∀ (c : Channel) (data : List Byte) (s : State), s.Quiet → s.mapped = true → s.mem.wf →
    data.length = 1020 →
    ∃ m u w, runCommand m (xferCommand c 1020#32 data) s = .next u ∧ u.pc = .idle ∧
      runCommand 1020 (readCommand c) u = .next w ∧
      w.responses = s.responses ++
        [⟨s.owner, .ok, .none, []⟩, ⟨s.owner, .ok, .none, data⟩]

/-- 41_buffer_transfer.md R147: the steps `X_ST1`, `X_ST2` and `X_NUDGE`. -/
def Obligations.NudgeSteps : Prop :=
  ∀ s : State, s.mapped = true → s.mem.wf →
    (s.pc = .xSt1 → (s.byteAt 0x001#12).getLsbD 2 = true →
      phaseStep s = .next { s with
        tmp := s.byteAt 0x001#12
        pc := .xSt2
        trace := s.trace ++ [.rd8 0x001#12 (s.byteAt 0x001#12)] }) ∧
    (s.pc = .xSt1 → (s.byteAt 0x001#12).getLsbD 2 = false →
      phaseStep s = .next { s with
        tmp := s.byteAt 0x001#12
        pc := .idle
        trace := s.trace ++ [.rd8 0x001#12 (s.byteAt 0x001#12)]
        responses := s.responses ++ [⟨s.owner, .ok, .none, []⟩] }) ∧
    (s.pc = .xSt2 →
      phaseStep s = .next { s with
        tmp := s.byteAt 0x001#12
        pc := .xNudge
        trace := s.trace ++ [.rd8 0x001#12 (s.byteAt 0x001#12)] }) ∧
    (s.pc = .xNudge → ∃ t, phaseStep s = .next t ∧
      t = { s with
        mem := t.mem
        pc := .idle
        trace := s.trace ++ [.wr8 0x001#12 (s.tmp ||| 0x04#8)]
        responses := s.responses ++ [⟨s.owner, .ok, .none, []⟩] } ∧
      t.byteAt 0x001#12 = s.tmp ||| 0x04#8 ∧ ∀ a, a ≠ 0x001#12 → t.byteAt a = s.byteAt a)

/-- 41_buffer_transfer.md R147 with a target step between the two reads: the condition is bit 2 of the
first read, the value written is the second read with bit 2 set. -/
def Obligations.NudgeConditionFirstReadValueSecondRead : Prop :=
  ∀ (s : State) (v : Byte) (q : Bool) (j k l : Nat) (rest : List Turn),
    s.mapped = true → s.mem.wf → s.pc = .xSt1 → (s.byteAt 0x001#12).getLsbD 2 = true →
    0x001#12 ∉ s.params.targetReadOnly →
    s.turns = [.engine j, .target [(0x001#12, v)] q, .engine k, .engine l] ++ rest →
    ∃ u, run 4 s = .next u ∧ u.pc = .idle ∧
      u.trace = s.trace ++ [.rd8 0x001#12 (s.byteAt 0x001#12), .rd8 0x001#12 v,
        .wr8 0x001#12 (v ||| 0x04#8)] ∧
      u.byteAt 0x001#12 = v ||| 0x04#8

/-- 70_reset_and_hazards.md R243: the four sequences that read `stat`, compute and write it back store a
value computed from the old read, whatever the target wrote to `stat` in between. -/
def Obligations.TargetChangeOfStatBetweenReadAndWriteIsLost : Prop :=
  ∀ (p : Phase) (f : Byte → Byte),
    (p, f) ∈ [(Phase.xbPreRd, fun v : Byte => v &&& 0xA0#8), (Phase.xSt2, fun v => v ||| 0x04#8),
      (Phase.rsStRd, fun v => (v &&& 0xF0#8) ||| 0x04#8), (Phase.iqRd, fun v => v &&& 0x0F#8)] →
    ∀ (s : State) (v : Byte) (q : Bool) (j k : Nat) (rest : List Turn),
      s.mapped = true → s.mem.wf → s.pc = p →
      s.turns = [.engine j, .target [(0x001#12, v)] q, .engine k] ++ rest →
      ∃ u, run 3 s = .next u ∧
        u.trace = s.trace ++ [.rd8 0x001#12 (s.byteAt 0x001#12),
          .wr8 0x001#12 (f (s.byteAt 0x001#12))] ∧
        u.byteAt 0x001#12 = f (s.byteAt 0x001#12)

/-- 41_buffer_transfer.md R153, 60_exceptions.md R208, R209: of two transfers offered together on channel
A, each is done whole, one after the other, and the buffer ends equal to one of the two blocks. That the
engine takes them up and does not stay at `IDLE` is log entry 27. -/
def Obligations.ConcurrentTransfersAreSerialised : Prop :=
  ∀ (b c : List Byte) (s : State), s.Quiet → s.pc = .idle → s.mapped = true →
    s.surface = true → s.mem.wf → b.length = 1020 → c.length = 1020 →
    s.cmdReqs = [⟨0x3000000003FC#48, b⟩, ⟨0x3000000003FC#48, c⟩] → s.irqReq = none →
    s.lifeReq = none →
    ∃ n u first second, run n s = .next u ∧ u.pc = .idle ∧ u.cmdReqs = [] ∧
      ((first = b ∧ second = c) ∨ (first = c ∧ second = b)) ∧
      u.block 0x800#12 = second ∧
      u.trace = s.trace ++
        (writeEvents 0x800#12 first ++ tailEvents (s.byteAt 0x001#12)) ++
        (writeEvents 0x800#12 second ++ tailEvents (s.byteAt 0x001#12)) ∧
      u.responses = s.responses ++ [⟨.cmd, .ok, .none, []⟩, ⟨.cmd, .ok, .none, []⟩]

/-! ## Reset -/

/-- 42_reset_sequencer.md R163, R164: one step of zeroing a buffer, and where each half ends. -/
def Obligations.ZeroingSteps : Prop :=
  ∀ s : State, s.mapped = true → s.mem.wf → s.idx.toNat < 1020 →
    (s.pc = .rsZa → ∃ t, phaseStep s = .next t ∧
      t = { s with
        mem := t.mem
        idx := if s.idx = 1019#10 then 0#10 else s.idx + 1
        pc := if s.idx = 1019#10 then .rsZb else .rsZa
        trace := s.trace ++ [.wr8 (blockOffset 0x800#12 s.idx.toNat) 0x00#8] } ∧
      t.byteAt (blockOffset 0x800#12 s.idx.toNat) = 0x00#8 ∧
      ∀ a, a ≠ blockOffset 0x800#12 s.idx.toNat → t.byteAt a = s.byteAt a) ∧
    (s.pc = .rsZb → ∃ t, phaseStep s = .next t ∧
      t = { s with
        mem := t.mem
        idx := if s.idx = 1019#10 then s.idx else s.idx + 1
        iter := if s.idx = 1019#10 then 0#15 else s.iter
        sub := if s.idx = 1019#10 then 0#2 else s.sub
        pc := if s.idx = 1019#10 then .rsSettle else .rsZb
        trace := s.trace ++ [.wr8 (blockOffset 0xC00#12 s.idx.toNat) 0x00#8] } ∧
      t.byteAt (blockOffset 0xC00#12 s.idx.toNat) = 0x00#8 ∧
      ∀ a, a ≠ blockOffset 0xC00#12 s.idx.toNat → t.byteAt a = s.byteAt a)

/-- 42_reset_sequencer.md R165: one iteration of the settling loop is three accesses, `bootp`, then the
first word of buffer B, then of buffer A; the 30,000th iteration leaves the loop. -/
def Obligations.SettlingIterationIsThreeAccesses : Prop :=
  ∀ s : State, s.Quiet → s.mapped = true → s.mem.wf → s.pc = .rsSettle → s.sub = 0#2 →
    s.iter.toNat < 30000 →
    ∃ u, run 3 s = .next u ∧
      u = { s with
        mem := u.mem
        iter := if s.iter = 29999#15 then s.iter else s.iter + 1
        sub := if s.iter = 29999#15 then 2#2 else 0#2
        pc := if s.iter = 29999#15 then .rsRun else .rsSettle
        trace := s.trace ++ [.wr8 0x000#12 0x00#8, .wr32 0xC00#12 0#32, .wr32 0x800#12 0#32] } ∧
      ∀ a, u.byteAt a =
        if a ∈ [0x000#12, 0xC00#12, 0xC01#12, 0xC02#12, 0xC03#12, 0x800#12, 0x801#12, 0x802#12,
          0x803#12] then 0x00#8 else s.byteAt a

/-- 42_reset_sequencer.md R166 to R169: the last four steps, and the two continuations. That the answer,
or the move to `AT_SURF`, falls in the step of `RS_ST_A0` is the model's reading, log entry 2. -/
def Obligations.ReleaseAndStatSteps : Prop :=
  ∀ s : State, s.Quiet → s.mapped = true → s.mem.wf → s.pc = .rsRun → s.owner ≠ .irq →
    ∃ u, run 4 s = .next u ∧
      u = { s with
        mem := u.mem
        tmp := s.byteAt 0x001#12
        pc := if s.owner = .cmd then .idle else .atSurf
        trace := s.trace ++ [.wr8 0x000#12 0x01#8, .rd8 0x001#12 (s.byteAt 0x001#12),
          .wr8 0x001#12 ((s.byteAt 0x001#12 &&& 0xF0#8) ||| 0x04#8), .wr8 0x001#12 0xA0#8]
        responses := if s.owner = .cmd then s.responses ++ [⟨.cmd, .ok, .none, []⟩]
          else s.responses } ∧
      u.byteAt 0x000#12 = 0x01#8 ∧ u.byteAt 0x001#12 = 0xA0#8 ∧
      ∀ a, a ≠ 0x000#12 → a ≠ 0x001#12 → u.byteAt a = s.byteAt a

/-- 42_reset_sequencer.md R161, R170, R172: `RESET 1` under a quiescent target: its complete trace of
92,044 events, the window, the registers (70_reset_and_hazards.md R231) and the answer. That the
92,044th step also answers is the model's reading, log entry 2. -/
def Obligations.ResetSequenceComplete : Prop :=
  ∀ s : State, s.Quiet → s.mapped = true → s.mem.wf → s.owner = .cmd →
    ∃ u, exec (.reset (.number 1#32)) s = .next { s with idx := 0#10, pc := .rsZa } ∧
      run 92044 { s with idx := 0#10, pc := .rsZa } = .next u ∧
      u = { s with
        mem := u.mem
        tmp := s.byteAt 0x001#12
        idx := 1019#10
        iter := 29999#15
        sub := 2#2
        pc := .idle
        trace := s.trace ++ resetEvents (s.byteAt 0x001#12)
        responses := s.responses ++ [⟨.cmd, .ok, .none, []⟩] } ∧
      u.trace.length = s.trace.length + 92044 ∧
      u.byteAt 0x000#12 = 0x01#8 ∧ u.byteAt 0x001#12 = 0xA0#8 ∧
      u.block 0x800#12 = List.replicate 1020 0x00#8 ∧
      u.block 0xC00#12 = List.replicate 1020 0x00#8 ∧
      ∀ a, a ≠ 0x000#12 → a ≠ 0x001#12 → ¬ inBuffer .a a → ¬ inBuffer .b a →
        u.byteAt a = s.byteAt a

/-! ## Interrupt service -/

/-- 43_interrupt_service.md R180 to R185, R187: the eight accesses of `IRQ_SVC` under a quiescent target,
the acknowledge, the diagnostic record and the answer. That the eighth step also answers is the model's
reading, log entry 2; that the diagnostic output has a value only from then on is log entry 15. -/
def Obligations.InterruptServiceRecordsAndAcknowledges : Prop :=
  ∀ s : State, s.Quiet → s.mapped = true → s.mem.wf →
    ∃ u, exec .irqSvc s = .next { s with owner := .irq, sub := 0#2, pc := .iqPre } ∧
      run 8 { s with owner := .irq, sub := 0#2, pc := .iqPre } = .next u ∧
      u = { s with
        mem := u.mem
        tmp := s.byteAt 0x001#12
        sub := 2#2
        owner := .irq
        diag := u.diag
        diagValid := true
        pc := .idle
        trace := s.trace ++
          [.rd8 0x000#12 (s.byteAt 0x000#12), .rd8 0x001#12 (s.byteAt 0x001#12),
            .rd8 0x002#12 (s.byteAt 0x002#12), .rd8 0x001#12 (s.byteAt 0x001#12),
            .wr8 0x001#12 (s.byteAt 0x001#12 &&& 0x0F#8), .rd8 0x000#12 (s.byteAt 0x000#12),
            .rd8 0x001#12 (s.byteAt 0x001#12 &&& 0x0F#8), .rd8 0x002#12 (s.byteAt 0x002#12)]
        responses := s.responses ++ [⟨.irq, .handled, .none, []⟩] } ∧
      u.diag.toList = [s.byteAt 0x000#12, s.byteAt 0x001#12, s.byteAt 0x002#12,
        s.byteAt 0x000#12, s.byteAt 0x001#12 &&& 0x0F#8, s.byteAt 0x002#12] ∧
      u.byteAt 0x001#12 = s.byteAt 0x001#12 &&& 0x0F#8 ∧
      ∀ a, a ≠ 0x001#12 → u.byteAt a = s.byteAt a

/-- 43_interrupt_service.md R186, the corrected property: after two invocations `stat` is what it was
after one, the low nibble it held before. -/
def Obligations.SecondInterruptServiceLeavesStat : Prop :=
  ∀ s : State, s.Quiet → s.mapped = true → s.mem.wf →
    ∃ u w, runCommand 8 .irqSvc s = .next u ∧ runCommand 8 .irqSvc u = .next w ∧
      u.byteAt 0x001#12 = s.byteAt 0x001#12 &&& 0x0F#8 ∧ w.byteAt 0x001#12 = u.byteAt 0x001#12

/-! ## Lifecycle -/

/-- 44_lifecycle.md R191: `ATTACH` with both answers 1 under a quiescent target: 92,045 accesses, the three
flags set, the dipsw write, then all that the reset sequence leaves. The count of 92,048 steps takes the
move to `AT_SURF` as part of the step of `RS_ST_A0` (log entry 2); the captured answers are log entry 6. -/
def Obligations.AttachInitialisesTheBoard : Prop :=
  ∀ s : State, s.Quiet → s.mem.wf → s.mapped = false → s.irqBound = false → s.surface = false →
    ∃ t u, exec (.attach true true) s = .next t ∧
      t = { s with owner := .life, mapOk := true, irqOk := true, pc := .atMap } ∧
      run 92048 t = .next u ∧
      u = { s with
        mem := u.mem
        tmp := s.byteAt 0x001#12
        idx := 1019#10
        iter := 29999#15
        sub := 2#2
        owner := .life
        mapOk := true
        irqOk := true
        mapped := true
        irqBound := true
        surface := true
        pc := .idle
        trace := s.trace ++
          .wr8 0x002#12 s.params.dipswInit :: resetEvents (s.byteAt 0x001#12)
        responses := s.responses ++ [⟨.life, .ok, .none, []⟩] } ∧
      u.trace.length = s.trace.length + 92045 ∧
      u.byteAt 0x000#12 = 0x01#8 ∧ u.byteAt 0x001#12 = 0xA0#8 ∧
      u.byteAt 0x002#12 = s.params.dipswInit ∧
      u.block 0x800#12 = List.replicate 1020 0x00#8 ∧
      u.block 0xC00#12 = List.replicate 1020 0x00#8 ∧
      ∀ a, a ≠ 0x000#12 → a ≠ 0x001#12 → a ≠ 0x002#12 → ¬ inBuffer .a a → ¬ inBuffer .b a →
        u.byteAt a = s.byteAt a

/-- 44_lifecycle.md R192: `ATTACH` with a refused resource: `ERES` with its cause, all three flags 0, no
access; a mapping acquired first is released again. The final values of the captured answers are the
model's, log entry 6. -/
def Obligations.FailedAttachUnwinds : Prop :=
  ∀ s : State, s.Quiet → s.mapped = false → s.irqBound = false → s.surface = false →
    (∀ q, runCommand 1 (.attach false q) s = .next { s with
      owner := .life
      mapOk := false
      irqOk := q
      pc := .idle
      responses := s.responses ++ [⟨.life, .eres, .mapFail, []⟩] }) ∧
    (∃ t, runCommand 1 (.attach true false) s = .next t ∧ t.mapped = true ∧ t.trace = s.trace) ∧
    runCommand 3 (.attach true false) s = .next { s with
      owner := .life
      mapOk := true
      irqOk := false
      pc := .idle
      responses := s.responses ++ [⟨.life, .eres, .irqFail, []⟩] }

/-- 44_lifecycle.md R193: `DETACH` clears surface, binding and mapping in that order, makes no bus access,
drops the requests left on the closed ports (log entry 10), leaves the diagnostic output its value (log
entry 26) and answers `OK`. -/
def Obligations.DetachReleasesInOrder : Prop :=
  ∀ s : State, s.Quiet → s.mapped = true → s.irqBound = true → s.surface = true →
    exec .detach s = .next { s with owner := .life, pc := .dtSurf } ∧
    (∃ t, run 1 { s with owner := .life, pc := .dtSurf } = .next t ∧
      (t.surface, t.irqBound, t.mapped) = (false, true, true)) ∧
    (∃ t, run 2 { s with owner := .life, pc := .dtSurf } = .next t ∧
      (t.surface, t.irqBound, t.mapped) = (false, false, true)) ∧
    run 3 { s with owner := .life, pc := .dtSurf } = .next { s with
      owner := .life
      surface := false
      irqBound := false
      mapped := false
      cmdReqs := []
      irqReq := none
      pc := .idle
      responses := s.responses ++ [⟨.life, .ok, .none, []⟩] }

/-- 10_state.md R44: the lifecycle flags change only in the phases of `ATTACH` and `DETACH`. -/
def Obligations.LifecycleFlagsChangeOnlyInAttachAndDetach : Prop :=
  ∀ s t : State, step s = .next t →
    (t.mapped ≠ s.mapped ∨ t.irqBound ≠ s.irqBound ∨ t.surface ≠ s.surface) →
    s.pc ∈ [Phase.atMap, .atIrq, .atUnwind, .atSurf, .dtSurf, .dtIrq, .dtMap]

/-! ## The environment -/

/-- 20_memory.md R75: a target step writes only the bytes it names, of those only the ones in
`TARGET_WRITABLE`, and the line; each writable byte named with one value holds it. It leaves the engine,
the ports and the trace alone. -/
def Obligations.TargetStepTouchesOnlyTheWindowAndTheLine : Prop :=
  ∀ (s : State) (w : List (Offset × Byte)) (q : Bool) (rest : List Turn),
    s.turns = .target w q :: rest →
    ∃ t, step s = .next t ∧ t = { s with mem := t.mem, irqIn := q, turns := rest } ∧
      (s.mem.wf → t.mem.wf) ∧
      (∀ a, a ∈ s.params.targetReadOnly → t.byteAt a = s.byteAt a) ∧
      (∀ a, (∀ v, (a, v) ∉ w) → t.byteAt a = s.byteAt a) ∧
      ∀ a v, (a, v) ∈ w → (∀ v', (a, v') ∈ w → v' = v) → s.mem.wf →
        a ∉ s.params.targetReadOnly → t.byteAt a = v

/-- 10_state.md R45, 60_exceptions.md R207, R211: what an offer on each port does. That an offer at a
closed gate or a full port leaves nothing behind, and that a lifecycle request without a step gives
way, is the model's choice, log entry 9. -/
def Obligations.OffersAreHeldOnOpenPorts : Prop :=
  ∀ (s : State) (p : Port) (r : Request) (rest : List Turn),
    s.turns = .offer p r :: rest →
    (p = .cmd → s.surface = true →
      step s = .next { s with turns := rest, cmdReqs := s.cmdReqs ++ [r] }) ∧
    (p = .irq → s.irqBound = true → s.irqReq = none →
      step s = .next { s with turns := rest, irqReq := some r }) ∧
    (p = .life → s.lifeReq = none → (s.pc ≠ .idle ∨ lifeGate s r = true) →
      step s = .next { s with turns := rest, lifeReq := some r }) ∧
    (p = .life → s.lifeReq = none → s.pc = .idle → lifeGate s r = false →
      step s = .next { s with turns := rest }) ∧
    (∀ r', p = .life → s.lifeReq = some r' → (s.pc ≠ .idle ∨ lifeGate s r' = true) →
      step s = .next { s with turns := rest }) ∧
    (∀ r', p = .life → s.lifeReq = some r' → s.pc = .idle → lifeGate s r' = false →
      step s = .next
        { s with turns := rest, lifeReq := some (if lifeGate s r = true then r else r') }) ∧
    (((p = .cmd ∧ s.surface = false) ∨ (p = .irq ∧ s.irqBound = false) ∨
        (p = .irq ∧ s.irqReq ≠ none)) →
      step s = .next { s with turns := rest })

/-- 10_state.md R46, 60_exceptions.md R206: the interrupt line is never sampled: whatever it is, a step
does the same, but for the line itself. -/
def Obligations.InterruptLineIsNeverSampled : Prop :=
  ∀ (s t : State) (b : Bool), step s = .next t →
    ∃ b', step { s with irqIn := b } = .next { t with irqIn := b' }

/-- 20_memory.md R78: what the window holds decides nothing about what the engine does next but the value
read at `X_ST1`: at every other phase two windows give the same next state but for data, the same
access, and responses of the same port, status and cause. -/
def Obligations.WindowSteersOnlyTheNudge : Prop :=
  ∀ (s t : State) (m : Memory), s.pc ≠ .xSt1 → step s = .next t →
    ∃ t', step { s with mem := m } = .next t' ∧
      t' = { t with
        mem := t'.mem, tmp := t'.tmp, stage := t'.stage, diag := t'.diag, trace := t'.trace
        responses := t'.responses } ∧
      t'.trace.map eventShape = t.trace.map eventShape ∧
      t'.responses.map responseShape = t.responses.map responseShape

/-! ## The whole machine -/

/-- 10_state.md R48, 60_exceptions.md R200 ff.: State.reset is a state of instantiation, and from every
such state, whatever the unspecified registers and the window hold, the engine idles until a request is
offered (70_reset_and_hazards.md R232) and the diagnostic output has no value. -/
def Obligations.InstantiatedEngineIdles : Prop :=
  State.reset.AtInstantiation ∧
  ∀ s : State, s.AtInstantiation → s.diagOutput = none ∧ (s.Quiet → step s = .next s)

/-- The invariant holds at instantiation, for every value of what R48 leaves unspecified. -/
def Obligations.InvariantHoldsAtInstantiation : Prop :=
  Inv State.reset ∧
  ∀ s : State, s.AtInstantiation → (∀ t ∈ s.turns, t.wellFormed = true) → Inv s

/-- 10_state.md R40, R44 and the canonical form of the window: every step keeps the invariant, whatever
the environment does. -/
def Obligations.EveryStepKeepsTheInvariant : Prop :=
  ∀ s t : State, Inv s → step s = .next t → Inv t

/-- 60_exceptions.md R204: nothing fails once it has started, and nothing is refused: under the invariant
every step answers a next state. -/
def Obligations.NoStepStops : Prop :=
  ∀ s : State, Inv s → ∃ t, step s = .next t

/-- 10_state.md R43, 70_reset_and_hazards.md R250: every sequence is finite and ends in `IDLE`; with no
other turn due, within 92,048 engine steps (the count takes a completion as part of the last phase's
step, log entry 2). -/
def Obligations.EverySequenceEndsInIdle : Prop :=
  ∀ s : State, Inv s → s.Quiet → ∃ n t, n ≤ 92048 ∧ run n s = .next t ∧ t.pc = .idle

/-- 10_state.md R44: in every state of the invariant `surface` implies `irq_bound` implies `mapped`, so
that a port is open only with the window mapped; a busy engine is at no closed window but in the phases
of `ATTACH` before the mapping. -/
def Obligations.OpenPortsHaveTheWindowMapped : Prop :=
  ∀ s : State, Inv s →
    (s.surface = true → s.irqBound = true) ∧ (s.irqBound = true → s.mapped = true) ∧
    (s.pc ≠ .idle → s.pc ≠ .atMap → s.mapped = true)

/-- 00_scope.md R7, R13: a step issues at most one bus access; the trace and the responses only grow; the
parameters stay. -/
def Obligations.AtMostOneAccessPerStep : Prop :=
  ∀ s t : State, step s = .next t →
    (t.trace = s.trace ∨ ∃ e, t.trace = s.trace ++ [e]) ∧
    (∃ l, t.responses = s.responses ++ l) ∧ t.params = s.params

/-- 10_state.md R31, 20_memory.md R71: an engine step changes the window exactly as the event it appends
says, and a read event carries the bytes the window held; a step without an event changes nothing. -/
def Obligations.WindowChangesExactlyAsTraced : Prop :=
  ∀ s t : State, s.mem.wf → (∀ w q rest, s.turns ≠ .target w q :: rest) → step s = .next t →
    (t.trace = s.trace ∧ t.mem = s.mem) ∨
    ∃ e, t.trace = s.trace ++ [e] ∧ (∀ a, t.byteAt a = eventByte e a (s.byteAt a)) ∧
      ∀ off v, e = .rd8 off v → v = s.byteAt off

/-- 10_state.md R29, R30: no engine step writes a hole of the window. -/
def Obligations.EngineNeverWritesAHole : Prop :=
  ∀ s t : State, Inv s → (∀ w q rest, s.turns ≠ .target w q :: rest) → step s = .next t →
    ∀ a, isHole a → t.byteAt a = s.byteAt a

/-- 30_encoding.md R96, 60_exceptions.md R201: a step delivers at most one response, to the port in
`owner`, exactly when it ends its command at `IDLE`; no step after acceptance answers `EINVAL`. -/
def Obligations.ExactlyOneResponseEndsACommand : Prop :=
  ∀ s t : State, step s = .next t →
    (t.responses = s.responses ∧ (s.pc ≠ .idle → t.pc ≠ .idle)) ∨
    ∃ r, t.responses = s.responses ++ [r] ∧ t.pc = .idle ∧ r.port = t.owner ∧
      (s.pc ≠ .idle → r.status ≠ .einval)

/-- 10_state.md R41: the diagnostic record is written by `IRQ_SVC` alone, in its phases `IQ_PRE` and
`IQ_POST`. That no phase of `DETACH` or `ATTACH` takes the output's value away is log entry 26. -/
def Obligations.OnlyInterruptServiceWritesDiag : Prop :=
  ∀ s t : State, step s = .next t → (t.diag ≠ s.diag ∨ t.diagValid ≠ s.diagValid) →
    s.pc = .iqPre ∨ s.pc = .iqPost

/-- 10_state.md R36, R37, R39, R40 (93 V4, V6): no rule reads a working register before its sequence has
written it: two idle boards that differ only in `tmp`, `idx`, `iter`, `sub`, `sel`, `ch`, `owner`,
`stage[]` and the captured answers (log entry 6) make the same run, step for step, and the states they
reach differ in nothing else. -/
def Obligations.StaleRegistersNeverShow : Prop :=
  ∀ (s : State) (tmp : Byte) (idx : BitVec 10) (iter : BitVec 15) (sub : BitVec 2) (sel : Reg)
    (ch : Channel) (owner : Port) (stage : Vector Byte 1020) (m q : Bool) (n : Nat) (u : State),
    s.pc = .idle → run n s = .next u →
    ∃ u', run n { s with
        tmp := tmp, idx := idx, iter := iter, sub := sub, sel := sel, ch := ch, owner := owner
        stage := stage, mapOk := m, irqOk := q } = .next u' ∧
      u' = { u with
        tmp := u'.tmp, idx := u'.idx, iter := u'.iter, sub := u'.sub, sel := u'.sel, ch := u'.ch
        owner := u'.owner, stage := u'.stage, mapOk := u'.mapOk, irqOk := u'.irqOk }

/-- 10_state.md R43 without the quiescent premise: whatever the other agents do in between and whatever
choice is named, each step of a busy engine comes nearer to `IDLE`, and no target step and no offer
moves it away. The bound at `ATTACH` takes a completion as part of the last phase's step, log entry 2. -/
def Obligations.EveryEngineStepComesNearerToIdle : Prop :=
  (∀ s : State, Inv s → stepsLeft s ≤ 92048 ∧ (stepsLeft s = 0 ↔ s.pc = .idle)) ∧
  (∀ (s t : State) (pick : Option Nat), Inv s → s.pc ≠ .idle → engineStep pick s = .next t →
    stepsLeft t < stepsLeft s) ∧
  ∀ (s t : State) (turn : Turn) (rest : List Turn), s.turns = turn :: rest →
    (∀ k, turn ≠ .engine k) → step s = .next t → stepsLeft t = stepsLeft s

/-- 60_exceptions.md R215, for every `N_BOARDS` (00_scope.md R9): in any interleaving each board makes
exactly its own run, and boards whose own runs go through run together in any order. With the default of
one board the run is that board's. -/
def Obligations.BoardsAreIndependent : Prop :=
  (∀ (nBoards : Nat) (b c : Boards nBoards) (order : List (Fin nBoards)),
    boardsRun order b = .next c → ∀ k, run (order.count k) (b.get k) = .next (c.get k)) ∧
  (∀ (nBoards : Nat) (b : Boards nBoards) (order : List (Fin nBoards)),
    (∀ k, ∃ t, run (order.count k) (b.get k) = .next t) → ∃ c, boardsRun order b = .next c) ∧
  ∀ (s : State) (n : Nat),
    boardsRun (List.replicate n 0) (Boards.single s) =
      andThen (run n s) fun t => .next (Boards.single t)
end

