-- ==== Sys2Proof/Laws/Memory.lean ====
section
/-!
SUPPORT. The laws of the window's memory: a read after a write, the canonical form, and that memories in
canonical form which read alike are equal.
-/
namespace Sys2Proof.Machine

theorem Memory.read_write_same (m : Memory) (a : Nat) (v : Byte) (h : m.wf) :
    (m.write a v).read a = v := by
  induction m with
  | nil => by_cases hv : v = unlisted <;> simp [Memory.write, Memory.read, hv]
  | cons c m ih =>
    obtain ⟨hs, hc⟩ := h
    rw [List.pairwise_cons] at hs
    have hm : Memory.wf m := ⟨hs.2, fun d hd => hc d (List.mem_cons_of_mem _ hd)⟩
    have above : ∀ n : Memory, (∀ d ∈ n, a < d.1) → n.read a = unlisted := by
      intro n hn
      induction n with
      | nil => rfl
      | cons d n ihn =>
        have h1 := hn d (List.mem_cons_self ..)
        simp only [Memory.read, if_neg (Nat.ne_of_gt h1)]
        exact ihn fun e he => hn e (List.mem_cons_of_mem _ he)
    unfold Memory.write
    split
    · rename_i hlt
      simp only [Memory.read, if_neg (Nat.ne_of_lt hlt)]
      exact ih hm
    · split
      · rename_i heq
        split
        · rename_i hv
          rw [hv]
          exact above m fun d hd => heq ▸ hs.1 d hd
        · simp [Memory.read]
      · rename_i hnlt hne
        have hgt : a < c.1 := by omega
        split
        · rename_i hv
          rw [hv]
          refine above (c :: m) fun d hd => ?_
          rcases List.mem_cons.1 hd with rfl | hd
          · exact hgt
          · exact Nat.lt_trans hgt (hs.1 d hd)
        · simp [Memory.read]

theorem Memory.read_write_ne (m : Memory) {a b : Nat} (v : Byte) (h : b ≠ a) :
    (m.write a v).read b = m.read b := by
  induction m with
  | nil =>
    unfold Memory.write
    split
    · rfl
    · simp [Memory.read, Ne.symm h]
  | cons c m ih =>
    unfold Memory.write
    split
    · simp only [Memory.read, ih]
    · split
      · rename_i heq
        have hcb : c.1 ≠ b := heq ▸ Ne.symm h
        split
        · simp [Memory.read, hcb]
        · simp [Memory.read, hcb, Ne.symm h]
      · split
        · rfl
        · simp [Memory.read, Ne.symm h]

theorem Memory.read_write (m : Memory) (a b : Nat) (v : Byte) (h : m.wf) :
    (m.write a v).read b = if b = a then v else m.read b := by
  split
  · subst b
    exact m.read_write_same a v h
  · exact m.read_write_ne v ‹_›

theorem Memory.mem_write {m : Memory} {a : Nat} {v : Byte} {d : Host.Cell}
    (h : d ∈ m.write a v) : d ∈ m ∨ (d = (a, v) ∧ v ≠ unlisted) := by
  induction m with
  | nil =>
    unfold Memory.write at h
    split at h
    · simp at h
    · exact .inr ⟨by simpa using h, ‹_›⟩
  | cons c m ih =>
    unfold Memory.write at h
    split at h
    · rcases List.mem_cons.1 h with rfl | h
      · exact .inl (List.mem_cons_self ..)
      · exact (ih h).imp_left (List.mem_cons_of_mem _)
    · split at h <;> split at h
      · exact .inl (List.mem_cons_of_mem _ h)
      · rcases List.mem_cons.1 h with rfl | h
        · exact .inr ⟨rfl, ‹_›⟩
        · exact .inl (List.mem_cons_of_mem _ h)
      · exact .inl h
      · rcases List.mem_cons.1 h with rfl | h
        · exact .inr ⟨rfl, ‹_›⟩
        · exact .inl h

theorem Memory.wf_nil : Memory.wf [] := ⟨.nil, by simp⟩

theorem Memory.wf_write {m : Memory} {a : Nat} (v : Byte) (ha : a < Config.windowSize)
    (h : m.wf) : (m.write a v).wf := by
  refine ⟨?_, fun d hd => ?_⟩
  · obtain ⟨hs, hc⟩ := h
    clear hc
    induction m with
    | nil =>
      unfold Memory.write
      split <;> simp
    | cons c m ih =>
      rw [List.pairwise_cons] at hs
      unfold Memory.write
      split
      · rename_i hlt
        refine List.pairwise_cons.2 ⟨fun d hd => ?_, ih hs.2⟩
        rcases Memory.mem_write hd with hd | ⟨rfl, -⟩
        · exact hs.1 d hd
        · exact hlt
      · split
        · rename_i heq
          split
          · exact hs.2
          · exact List.pairwise_cons.2 ⟨fun d hd => heq ▸ hs.1 d hd, hs.2⟩
        · split
          · exact List.pairwise_cons.2 hs
          · refine List.pairwise_cons.2 ⟨fun d hd => ?_, List.pairwise_cons.2 hs⟩
            rcases List.mem_cons.1 hd with rfl | hd
            · show a < d.1
              omega
            · have := hs.1 d hd
              show a < d.1
              omega
  · rcases Memory.mem_write hd with hd | ⟨rfl, hv⟩
    · exact h.2 d hd
    · exact ⟨ha, hv⟩

/-- A write at a 12-bit offset keeps the canonical form. -/
theorem Memory.wf_write_offset {m : Memory} (off : Offset) (v : Byte) (h : m.wf) :
    (m.write off.toNat v).wf := Memory.wf_write v off.isLt h

theorem Memory.read_of_lt {m : Memory} {a : Nat} (h : ∀ d ∈ m, a < d.1) :
    m.read a = unlisted := by
  induction m with
  | nil => rfl
  | cons c m ih =>
    have h1 := h c (List.mem_cons_self ..)
    simp only [Memory.read, if_neg (Nat.ne_of_gt h1)]
    exact ih fun d hd => h d (List.mem_cons_of_mem _ hd)

/-- Equal memories are equal data. -/
theorem Memory.ext_of_wf {m n : Memory} (hm : m.wf) (hn : n.wf)
    (h : ∀ a, m.read a = n.read a) : m = n := by
  induction m generalizing n with
  | nil =>
    cases n with
    | nil => rfl
    | cons c n =>
      have hc := h c.1
      rw [show Memory.read (c :: n) c.1 = c.2 by simp [Memory.read]] at hc
      exact absurd hc.symm (hn.2 c (List.mem_cons_self ..)).2
  | cons c m ih =>
    cases n with
    | nil =>
      have hc := h c.1
      rw [show Memory.read (c :: m) c.1 = c.2 by simp [Memory.read]] at hc
      exact absurd hc (hm.2 c (List.mem_cons_self ..)).2
    | cons d n =>
      obtain ⟨hms, hmc⟩ := hm
      obtain ⟨hns, hnc⟩ := hn
      rw [List.pairwise_cons] at hms hns
      have hcd : c.1 = d.1 := by
        rcases Nat.lt_trichotomy c.1 d.1 with hlt | heq | hgt
        · have hc := h c.1
          rw [show Memory.read (c :: m) c.1 = c.2 by simp [Memory.read]] at hc
          rw [Memory.read_of_lt (m := d :: n) fun e he => by
            rcases List.mem_cons.1 he with rfl | he
            · exact hlt
            · exact Nat.lt_trans hlt (hns.1 e he)] at hc
          exact absurd hc (hmc c (List.mem_cons_self ..)).2
        · exact heq
        · have hc := h d.1
          rw [show Memory.read (d :: n) d.1 = d.2 by simp [Memory.read]] at hc
          rw [Memory.read_of_lt (m := c :: m) fun e he => by
            rcases List.mem_cons.1 he with rfl | he
            · exact hgt
            · exact Nat.lt_trans hgt (hms.1 e he)] at hc
          exact absurd hc.symm (hnc d (List.mem_cons_self ..)).2
      have hv : c.2 = d.2 := by
        have := h c.1
        simpa [Memory.read, hcd] using this
      have hmn : m = n := by
        refine ih ⟨hms.2, fun e he => hmc e (List.mem_cons_of_mem _ he)⟩
          ⟨hns.2, fun e he => hnc e (List.mem_cons_of_mem _ he)⟩ fun a => ?_
        by_cases ha : c.1 = a
        · subst a
          rw [Memory.read_of_lt hms.1, Memory.read_of_lt fun e he => hcd ▸ hns.1 e he]
        · have := h a
          simpa [Memory.read, ha, hcd ▸ ha] using this
      rw [hmn, Prod.ext hcd hv]

end Sys2Proof.Machine
end

