-- ==== Sys2Proof/Laws/State.lean ====
section
/-!
SUPPORT. One lemma per field per named update of the state, each true by rfl.
-/
namespace Sys2Proof.Machine

variable (s : State)

/-! ## `State.goto` -/

@[simp] theorem State.goto_params (p : Phase) : (s.goto p).params = s.params := rfl
@[simp] theorem State.goto_mem (p : Phase) : (s.goto p).mem = s.mem := rfl
@[simp] theorem State.goto_pc (p : Phase) : (s.goto p).pc = p := rfl
@[simp] theorem State.goto_tmp (p : Phase) : (s.goto p).tmp = s.tmp := rfl
@[simp] theorem State.goto_idx (p : Phase) : (s.goto p).idx = s.idx := rfl
@[simp] theorem State.goto_iter (p : Phase) : (s.goto p).iter = s.iter := rfl
@[simp] theorem State.goto_sub (p : Phase) : (s.goto p).sub = s.sub := rfl
@[simp] theorem State.goto_sel (p : Phase) : (s.goto p).sel = s.sel := rfl
@[simp] theorem State.goto_ch (p : Phase) : (s.goto p).ch = s.ch := rfl
@[simp] theorem State.goto_owner (p : Phase) : (s.goto p).owner = s.owner := rfl
@[simp] theorem State.goto_stage (p : Phase) : (s.goto p).stage = s.stage := rfl
@[simp] theorem State.goto_diag (p : Phase) : (s.goto p).diag = s.diag := rfl
@[simp] theorem State.goto_diagValid (p : Phase) : (s.goto p).diagValid = s.diagValid := rfl
@[simp] theorem State.goto_mapOk (p : Phase) : (s.goto p).mapOk = s.mapOk := rfl
@[simp] theorem State.goto_irqOk (p : Phase) : (s.goto p).irqOk = s.irqOk := rfl
@[simp] theorem State.goto_mapped (p : Phase) : (s.goto p).mapped = s.mapped := rfl
@[simp] theorem State.goto_irqBound (p : Phase) : (s.goto p).irqBound = s.irqBound := rfl
@[simp] theorem State.goto_surface (p : Phase) : (s.goto p).surface = s.surface := rfl
@[simp] theorem State.goto_cmdReqs (p : Phase) : (s.goto p).cmdReqs = s.cmdReqs := rfl
@[simp] theorem State.goto_irqReq (p : Phase) : (s.goto p).irqReq = s.irqReq := rfl
@[simp] theorem State.goto_lifeReq (p : Phase) : (s.goto p).lifeReq = s.lifeReq := rfl
@[simp] theorem State.goto_trace (p : Phase) : (s.goto p).trace = s.trace := rfl
@[simp] theorem State.goto_responses (p : Phase) : (s.goto p).responses = s.responses := rfl
@[simp] theorem State.goto_irqIn (p : Phase) : (s.goto p).irqIn = s.irqIn := rfl
@[simp] theorem State.goto_turns (p : Phase) : (s.goto p).turns = s.turns := rfl
@[simp] theorem State.goto_draws (p : Phase) : (s.goto p).draws = s.draws := rfl

/-! ## `State.emit` -/

@[simp] theorem State.emit_params (e : BusEvent) : (s.emit e).params = s.params := rfl
@[simp] theorem State.emit_mem (e : BusEvent) : (s.emit e).mem = s.mem := rfl
@[simp] theorem State.emit_pc (e : BusEvent) : (s.emit e).pc = s.pc := rfl
@[simp] theorem State.emit_tmp (e : BusEvent) : (s.emit e).tmp = s.tmp := rfl
@[simp] theorem State.emit_idx (e : BusEvent) : (s.emit e).idx = s.idx := rfl
@[simp] theorem State.emit_iter (e : BusEvent) : (s.emit e).iter = s.iter := rfl
@[simp] theorem State.emit_sub (e : BusEvent) : (s.emit e).sub = s.sub := rfl
@[simp] theorem State.emit_sel (e : BusEvent) : (s.emit e).sel = s.sel := rfl
@[simp] theorem State.emit_ch (e : BusEvent) : (s.emit e).ch = s.ch := rfl
@[simp] theorem State.emit_owner (e : BusEvent) : (s.emit e).owner = s.owner := rfl
@[simp] theorem State.emit_stage (e : BusEvent) : (s.emit e).stage = s.stage := rfl
@[simp] theorem State.emit_diag (e : BusEvent) : (s.emit e).diag = s.diag := rfl
@[simp] theorem State.emit_diagValid (e : BusEvent) : (s.emit e).diagValid = s.diagValid := rfl
@[simp] theorem State.emit_mapOk (e : BusEvent) : (s.emit e).mapOk = s.mapOk := rfl
@[simp] theorem State.emit_irqOk (e : BusEvent) : (s.emit e).irqOk = s.irqOk := rfl
@[simp] theorem State.emit_mapped (e : BusEvent) : (s.emit e).mapped = s.mapped := rfl
@[simp] theorem State.emit_irqBound (e : BusEvent) : (s.emit e).irqBound = s.irqBound := rfl
@[simp] theorem State.emit_surface (e : BusEvent) : (s.emit e).surface = s.surface := rfl
@[simp] theorem State.emit_cmdReqs (e : BusEvent) : (s.emit e).cmdReqs = s.cmdReqs := rfl
@[simp] theorem State.emit_irqReq (e : BusEvent) : (s.emit e).irqReq = s.irqReq := rfl
@[simp] theorem State.emit_lifeReq (e : BusEvent) : (s.emit e).lifeReq = s.lifeReq := rfl
@[simp] theorem State.emit_trace (e : BusEvent) : (s.emit e).trace = s.trace ++ [e] := rfl
@[simp] theorem State.emit_responses (e : BusEvent) : (s.emit e).responses = s.responses := rfl
@[simp] theorem State.emit_irqIn (e : BusEvent) : (s.emit e).irqIn = s.irqIn := rfl
@[simp] theorem State.emit_turns (e : BusEvent) : (s.emit e).turns = s.turns := rfl
@[simp] theorem State.emit_draws (e : BusEvent) : (s.emit e).draws = s.draws := rfl

/-! ## `State.store` -/

@[simp] theorem State.store_params (off : Offset) (v : Byte) : (s.store off v).params = s.params := rfl
@[simp] theorem State.store_mem (off : Offset) (v : Byte) : (s.store off v).mem = s.mem.write off.toNat v := rfl
@[simp] theorem State.store_pc (off : Offset) (v : Byte) : (s.store off v).pc = s.pc := rfl
@[simp] theorem State.store_tmp (off : Offset) (v : Byte) : (s.store off v).tmp = s.tmp := rfl
@[simp] theorem State.store_idx (off : Offset) (v : Byte) : (s.store off v).idx = s.idx := rfl
@[simp] theorem State.store_iter (off : Offset) (v : Byte) : (s.store off v).iter = s.iter := rfl
@[simp] theorem State.store_sub (off : Offset) (v : Byte) : (s.store off v).sub = s.sub := rfl
@[simp] theorem State.store_sel (off : Offset) (v : Byte) : (s.store off v).sel = s.sel := rfl
@[simp] theorem State.store_ch (off : Offset) (v : Byte) : (s.store off v).ch = s.ch := rfl
@[simp] theorem State.store_owner (off : Offset) (v : Byte) : (s.store off v).owner = s.owner := rfl
@[simp] theorem State.store_stage (off : Offset) (v : Byte) : (s.store off v).stage = s.stage := rfl
@[simp] theorem State.store_diag (off : Offset) (v : Byte) : (s.store off v).diag = s.diag := rfl
@[simp] theorem State.store_diagValid (off : Offset) (v : Byte) : (s.store off v).diagValid = s.diagValid := rfl
@[simp] theorem State.store_mapOk (off : Offset) (v : Byte) : (s.store off v).mapOk = s.mapOk := rfl
@[simp] theorem State.store_irqOk (off : Offset) (v : Byte) : (s.store off v).irqOk = s.irqOk := rfl
@[simp] theorem State.store_mapped (off : Offset) (v : Byte) : (s.store off v).mapped = s.mapped := rfl
@[simp] theorem State.store_irqBound (off : Offset) (v : Byte) : (s.store off v).irqBound = s.irqBound := rfl
@[simp] theorem State.store_surface (off : Offset) (v : Byte) : (s.store off v).surface = s.surface := rfl
@[simp] theorem State.store_cmdReqs (off : Offset) (v : Byte) : (s.store off v).cmdReqs = s.cmdReqs := rfl
@[simp] theorem State.store_irqReq (off : Offset) (v : Byte) : (s.store off v).irqReq = s.irqReq := rfl
@[simp] theorem State.store_lifeReq (off : Offset) (v : Byte) : (s.store off v).lifeReq = s.lifeReq := rfl
@[simp] theorem State.store_trace (off : Offset) (v : Byte) : (s.store off v).trace = s.trace := rfl
@[simp] theorem State.store_responses (off : Offset) (v : Byte) : (s.store off v).responses = s.responses := rfl
@[simp] theorem State.store_irqIn (off : Offset) (v : Byte) : (s.store off v).irqIn = s.irqIn := rfl
@[simp] theorem State.store_turns (off : Offset) (v : Byte) : (s.store off v).turns = s.turns := rfl
@[simp] theorem State.store_draws (off : Offset) (v : Byte) : (s.store off v).draws = s.draws := rfl

/-! ## `State.respond` -/

@[simp] theorem State.respond_params (st : Status) (c : Cause) (data : List Byte) : (s.respond st c data).params = s.params := rfl
@[simp] theorem State.respond_mem (st : Status) (c : Cause) (data : List Byte) : (s.respond st c data).mem = s.mem := rfl
@[simp] theorem State.respond_pc (st : Status) (c : Cause) (data : List Byte) : (s.respond st c data).pc = .idle := rfl
@[simp] theorem State.respond_tmp (st : Status) (c : Cause) (data : List Byte) : (s.respond st c data).tmp = s.tmp := rfl
@[simp] theorem State.respond_idx (st : Status) (c : Cause) (data : List Byte) : (s.respond st c data).idx = s.idx := rfl
@[simp] theorem State.respond_iter (st : Status) (c : Cause) (data : List Byte) : (s.respond st c data).iter = s.iter := rfl
@[simp] theorem State.respond_sub (st : Status) (c : Cause) (data : List Byte) : (s.respond st c data).sub = s.sub := rfl
@[simp] theorem State.respond_sel (st : Status) (c : Cause) (data : List Byte) : (s.respond st c data).sel = s.sel := rfl
@[simp] theorem State.respond_ch (st : Status) (c : Cause) (data : List Byte) : (s.respond st c data).ch = s.ch := rfl
@[simp] theorem State.respond_owner (st : Status) (c : Cause) (data : List Byte) : (s.respond st c data).owner = s.owner := rfl
@[simp] theorem State.respond_stage (st : Status) (c : Cause) (data : List Byte) : (s.respond st c data).stage = s.stage := rfl
@[simp] theorem State.respond_diag (st : Status) (c : Cause) (data : List Byte) : (s.respond st c data).diag = s.diag := rfl
@[simp] theorem State.respond_diagValid (st : Status) (c : Cause) (data : List Byte) : (s.respond st c data).diagValid = s.diagValid := rfl
@[simp] theorem State.respond_mapOk (st : Status) (c : Cause) (data : List Byte) : (s.respond st c data).mapOk = s.mapOk := rfl
@[simp] theorem State.respond_irqOk (st : Status) (c : Cause) (data : List Byte) : (s.respond st c data).irqOk = s.irqOk := rfl
@[simp] theorem State.respond_mapped (st : Status) (c : Cause) (data : List Byte) : (s.respond st c data).mapped = s.mapped := rfl
@[simp] theorem State.respond_irqBound (st : Status) (c : Cause) (data : List Byte) : (s.respond st c data).irqBound = s.irqBound := rfl
@[simp] theorem State.respond_surface (st : Status) (c : Cause) (data : List Byte) : (s.respond st c data).surface = s.surface := rfl
@[simp] theorem State.respond_cmdReqs (st : Status) (c : Cause) (data : List Byte) : (s.respond st c data).cmdReqs = s.cmdReqs := rfl
@[simp] theorem State.respond_irqReq (st : Status) (c : Cause) (data : List Byte) : (s.respond st c data).irqReq = s.irqReq := rfl
@[simp] theorem State.respond_lifeReq (st : Status) (c : Cause) (data : List Byte) : (s.respond st c data).lifeReq = s.lifeReq := rfl
@[simp] theorem State.respond_trace (st : Status) (c : Cause) (data : List Byte) : (s.respond st c data).trace = s.trace := rfl
@[simp] theorem State.respond_responses (st : Status) (c : Cause) (data : List Byte) : (s.respond st c data).responses = s.responses ++ [⟨s.owner, st, c, data⟩] := rfl
@[simp] theorem State.respond_irqIn (st : Status) (c : Cause) (data : List Byte) : (s.respond st c data).irqIn = s.irqIn := rfl
@[simp] theorem State.respond_turns (st : Status) (c : Cause) (data : List Byte) : (s.respond st c data).turns = s.turns := rfl
@[simp] theorem State.respond_draws (st : Status) (c : Cause) (data : List Byte) : (s.respond st c data).draws = s.draws := rfl

/-! ## `State.putStage` -/

@[simp] theorem State.putStage_params (i : Fin 1020) (v : Byte) : (s.putStage i v).params = s.params := rfl
@[simp] theorem State.putStage_mem (i : Fin 1020) (v : Byte) : (s.putStage i v).mem = s.mem := rfl
@[simp] theorem State.putStage_pc (i : Fin 1020) (v : Byte) : (s.putStage i v).pc = s.pc := rfl
@[simp] theorem State.putStage_tmp (i : Fin 1020) (v : Byte) : (s.putStage i v).tmp = s.tmp := rfl
@[simp] theorem State.putStage_idx (i : Fin 1020) (v : Byte) : (s.putStage i v).idx = s.idx := rfl
@[simp] theorem State.putStage_iter (i : Fin 1020) (v : Byte) : (s.putStage i v).iter = s.iter := rfl
@[simp] theorem State.putStage_sub (i : Fin 1020) (v : Byte) : (s.putStage i v).sub = s.sub := rfl
@[simp] theorem State.putStage_sel (i : Fin 1020) (v : Byte) : (s.putStage i v).sel = s.sel := rfl
@[simp] theorem State.putStage_ch (i : Fin 1020) (v : Byte) : (s.putStage i v).ch = s.ch := rfl
@[simp] theorem State.putStage_owner (i : Fin 1020) (v : Byte) : (s.putStage i v).owner = s.owner := rfl
@[simp] theorem State.putStage_stage (i : Fin 1020) (v : Byte) : (s.putStage i v).stage = s.stage.set i.val v i.isLt := rfl
@[simp] theorem State.putStage_diag (i : Fin 1020) (v : Byte) : (s.putStage i v).diag = s.diag := rfl
@[simp] theorem State.putStage_diagValid (i : Fin 1020) (v : Byte) : (s.putStage i v).diagValid = s.diagValid := rfl
@[simp] theorem State.putStage_mapOk (i : Fin 1020) (v : Byte) : (s.putStage i v).mapOk = s.mapOk := rfl
@[simp] theorem State.putStage_irqOk (i : Fin 1020) (v : Byte) : (s.putStage i v).irqOk = s.irqOk := rfl
@[simp] theorem State.putStage_mapped (i : Fin 1020) (v : Byte) : (s.putStage i v).mapped = s.mapped := rfl
@[simp] theorem State.putStage_irqBound (i : Fin 1020) (v : Byte) : (s.putStage i v).irqBound = s.irqBound := rfl
@[simp] theorem State.putStage_surface (i : Fin 1020) (v : Byte) : (s.putStage i v).surface = s.surface := rfl
@[simp] theorem State.putStage_cmdReqs (i : Fin 1020) (v : Byte) : (s.putStage i v).cmdReqs = s.cmdReqs := rfl
@[simp] theorem State.putStage_irqReq (i : Fin 1020) (v : Byte) : (s.putStage i v).irqReq = s.irqReq := rfl
@[simp] theorem State.putStage_lifeReq (i : Fin 1020) (v : Byte) : (s.putStage i v).lifeReq = s.lifeReq := rfl
@[simp] theorem State.putStage_trace (i : Fin 1020) (v : Byte) : (s.putStage i v).trace = s.trace := rfl
@[simp] theorem State.putStage_responses (i : Fin 1020) (v : Byte) : (s.putStage i v).responses = s.responses := rfl
@[simp] theorem State.putStage_irqIn (i : Fin 1020) (v : Byte) : (s.putStage i v).irqIn = s.irqIn := rfl
@[simp] theorem State.putStage_turns (i : Fin 1020) (v : Byte) : (s.putStage i v).turns = s.turns := rfl
@[simp] theorem State.putStage_draws (i : Fin 1020) (v : Byte) : (s.putStage i v).draws = s.draws := rfl

/-! ## `State.putDiag` -/

@[simp] theorem State.putDiag_params (k : Fin 6) (v : Byte) : (s.putDiag k v).params = s.params := rfl
@[simp] theorem State.putDiag_mem (k : Fin 6) (v : Byte) : (s.putDiag k v).mem = s.mem := rfl
@[simp] theorem State.putDiag_pc (k : Fin 6) (v : Byte) : (s.putDiag k v).pc = s.pc := rfl
@[simp] theorem State.putDiag_tmp (k : Fin 6) (v : Byte) : (s.putDiag k v).tmp = s.tmp := rfl
@[simp] theorem State.putDiag_idx (k : Fin 6) (v : Byte) : (s.putDiag k v).idx = s.idx := rfl
@[simp] theorem State.putDiag_iter (k : Fin 6) (v : Byte) : (s.putDiag k v).iter = s.iter := rfl
@[simp] theorem State.putDiag_sub (k : Fin 6) (v : Byte) : (s.putDiag k v).sub = s.sub := rfl
@[simp] theorem State.putDiag_sel (k : Fin 6) (v : Byte) : (s.putDiag k v).sel = s.sel := rfl
@[simp] theorem State.putDiag_ch (k : Fin 6) (v : Byte) : (s.putDiag k v).ch = s.ch := rfl
@[simp] theorem State.putDiag_owner (k : Fin 6) (v : Byte) : (s.putDiag k v).owner = s.owner := rfl
@[simp] theorem State.putDiag_stage (k : Fin 6) (v : Byte) : (s.putDiag k v).stage = s.stage := rfl
@[simp] theorem State.putDiag_diag (k : Fin 6) (v : Byte) : (s.putDiag k v).diag = s.diag.set k.val v k.isLt := rfl
@[simp] theorem State.putDiag_diagValid (k : Fin 6) (v : Byte) : (s.putDiag k v).diagValid = s.diagValid := rfl
@[simp] theorem State.putDiag_mapOk (k : Fin 6) (v : Byte) : (s.putDiag k v).mapOk = s.mapOk := rfl
@[simp] theorem State.putDiag_irqOk (k : Fin 6) (v : Byte) : (s.putDiag k v).irqOk = s.irqOk := rfl
@[simp] theorem State.putDiag_mapped (k : Fin 6) (v : Byte) : (s.putDiag k v).mapped = s.mapped := rfl
@[simp] theorem State.putDiag_irqBound (k : Fin 6) (v : Byte) : (s.putDiag k v).irqBound = s.irqBound := rfl
@[simp] theorem State.putDiag_surface (k : Fin 6) (v : Byte) : (s.putDiag k v).surface = s.surface := rfl
@[simp] theorem State.putDiag_cmdReqs (k : Fin 6) (v : Byte) : (s.putDiag k v).cmdReqs = s.cmdReqs := rfl
@[simp] theorem State.putDiag_irqReq (k : Fin 6) (v : Byte) : (s.putDiag k v).irqReq = s.irqReq := rfl
@[simp] theorem State.putDiag_lifeReq (k : Fin 6) (v : Byte) : (s.putDiag k v).lifeReq = s.lifeReq := rfl
@[simp] theorem State.putDiag_trace (k : Fin 6) (v : Byte) : (s.putDiag k v).trace = s.trace := rfl
@[simp] theorem State.putDiag_responses (k : Fin 6) (v : Byte) : (s.putDiag k v).responses = s.responses := rfl
@[simp] theorem State.putDiag_irqIn (k : Fin 6) (v : Byte) : (s.putDiag k v).irqIn = s.irqIn := rfl
@[simp] theorem State.putDiag_turns (k : Fin 6) (v : Byte) : (s.putDiag k v).turns = s.turns := rfl
@[simp] theorem State.putDiag_draws (k : Fin 6) (v : Byte) : (s.putDiag k v).draws = s.draws := rfl

/-! ## `State.enterReset` -/

@[simp] theorem State.enterReset_params : (s.enterReset).params = s.params := rfl
@[simp] theorem State.enterReset_mem : (s.enterReset).mem = s.mem := rfl
@[simp] theorem State.enterReset_pc : (s.enterReset).pc = .rsZa := rfl
@[simp] theorem State.enterReset_tmp : (s.enterReset).tmp = s.tmp := rfl
@[simp] theorem State.enterReset_idx : (s.enterReset).idx = 0#10 := rfl
@[simp] theorem State.enterReset_iter : (s.enterReset).iter = s.iter := rfl
@[simp] theorem State.enterReset_sub : (s.enterReset).sub = s.sub := rfl
@[simp] theorem State.enterReset_sel : (s.enterReset).sel = s.sel := rfl
@[simp] theorem State.enterReset_ch : (s.enterReset).ch = s.ch := rfl
@[simp] theorem State.enterReset_owner : (s.enterReset).owner = s.owner := rfl
@[simp] theorem State.enterReset_stage : (s.enterReset).stage = s.stage := rfl
@[simp] theorem State.enterReset_diag : (s.enterReset).diag = s.diag := rfl
@[simp] theorem State.enterReset_diagValid : (s.enterReset).diagValid = s.diagValid := rfl
@[simp] theorem State.enterReset_mapOk : (s.enterReset).mapOk = s.mapOk := rfl
@[simp] theorem State.enterReset_irqOk : (s.enterReset).irqOk = s.irqOk := rfl
@[simp] theorem State.enterReset_mapped : (s.enterReset).mapped = s.mapped := rfl
@[simp] theorem State.enterReset_irqBound : (s.enterReset).irqBound = s.irqBound := rfl
@[simp] theorem State.enterReset_surface : (s.enterReset).surface = s.surface := rfl
@[simp] theorem State.enterReset_cmdReqs : (s.enterReset).cmdReqs = s.cmdReqs := rfl
@[simp] theorem State.enterReset_irqReq : (s.enterReset).irqReq = s.irqReq := rfl
@[simp] theorem State.enterReset_lifeReq : (s.enterReset).lifeReq = s.lifeReq := rfl
@[simp] theorem State.enterReset_trace : (s.enterReset).trace = s.trace := rfl
@[simp] theorem State.enterReset_responses : (s.enterReset).responses = s.responses := rfl
@[simp] theorem State.enterReset_irqIn : (s.enterReset).irqIn = s.irqIn := rfl
@[simp] theorem State.enterReset_turns : (s.enterReset).turns = s.turns := rfl
@[simp] theorem State.enterReset_draws : (s.enterReset).draws = s.draws := rfl

end Sys2Proof.Machine
end

