-- ==== Sys2Proof/Laws/Bus.lean ====
section
/-!
SUPPORT. What the shared operations can do: sequencing, the bus primitives, and the bytes of the window
after a store.
-/
namespace Sys2Proof.Machine

/-! ## Sequencing -/

@[simp] theorem andThen_next {α β : Type} (a : α) (f : α → Host.Outcome β Fault Refusal) :
    andThen (.next a) f = f a := rfl

@[simp] theorem andThen_fault {α β : Type} (r : Fault) (f : α → Host.Outcome β Fault Refusal) :
    andThen (.fault r) f = .fault r := rfl

@[simp] theorem andThen_refused {α β : Type} (r : Refusal) (f : α → Host.Outcome β Fault Refusal) :
    andThen (.refused r) f = .refused r := rfl

theorem andThen_eq_next {α β : Type} {o : Host.Outcome α Fault Refusal}
    {f : α → Host.Outcome β Fault Refusal} {b : β} :
    andThen o f = .next b ↔ ∃ a, o = .next a ∧ f a = .next b := by
  cases o <;> simp [andThen]

theorem andThen_assoc {α β γ : Type} (o : Host.Outcome α Fault Refusal)
    (f : α → Host.Outcome β Fault Refusal) (g : β → Host.Outcome γ Fault Refusal) :
    andThen (andThen o f) g = andThen o fun a => andThen (f a) g := by
  cases o <;> rfl

/-! ## The bus port -/

theorem rd8_of_mapped {s : State} (off : Offset) (h : s.mapped = true) :
    rd8 off s = .next (s.byteAt off, s.emit (.rd8 off (s.byteAt off))) := by
  simp [rd8, h]

theorem wr8_of_mapped {s : State} (off : Offset) (v : Byte) (h : s.mapped = true) :
    wr8 off v s = .next ((s.store off v).emit (.wr8 off v)) := by
  simp [wr8, h]

theorem rd8_eq_next {off : Offset} {s t : State} {v : Byte} :
    rd8 off s = .next (v, t) ↔
      s.mapped = true ∧ v = s.byteAt off ∧ t = s.emit (.rd8 off (s.byteAt off)) := by
  by_cases h : s.mapped = true <;> simp [rd8, h, eq_comm]

theorem wr8_eq_next {off : Offset} {v : Byte} {s t : State} :
    wr8 off v s = .next t ↔ s.mapped = true ∧ t = (s.store off v).emit (.wr8 off v) := by
  by_cases h : s.mapped = true <;> simp [wr8, h, eq_comm]

theorem wr32_of_mapped {s : State} {off : Offset} (v : Word32) (h : s.mapped = true)
    (ha : aligned32 off = true) :
    wr32 off v s = .next ((s.storeWord off v).emit (.wr32 off v)) := by
  simp [wr32, h, ha]

theorem rd32_of_mapped {s : State} {off : Offset} (h : s.mapped = true)
    (ha : aligned32 off = true) :
    rd32 off s = .next (s.wordAt off, s.emit (.rd32 off (s.wordAt off))) := by
  simp [rd32, h, ha]

theorem wr32_eq_next {off : Offset} {v : Word32} {s t : State} :
    wr32 off v s = .next t ↔
      s.mapped = true ∧ aligned32 off = true ∧ t = (s.storeWord off v).emit (.wr32 off v) := by
  by_cases h : s.mapped = true <;> by_cases ha : aligned32 off = true <;>
    simp [wr32, h, ha, eq_comm]

theorem aligned32_bufA : aligned32 Config.offBufA = true := by decide

theorem aligned32_bufB : aligned32 Config.offBufB = true := by decide

/-! ## Bytes of the window -/

theorem State.byteAt_of_mem {s t : State} (h : t.mem = s.mem) (off : Offset) :
    t.byteAt off = s.byteAt off := by
  simp [State.byteAt, h]

theorem State.byteAt_store (s : State) (off a : Offset) (v : Byte) (h : s.mem.wf) :
    (s.store off v).byteAt a = if a = off then v else s.byteAt a := by
  simp only [State.byteAt, State.store_mem, Memory.read_write _ _ _ _ h, BitVec.toNat_inj]

theorem State.byteAt_store_ne (s : State) {off a : Offset} (v : Byte) (h : a ≠ off) :
    (s.store off v).byteAt a = s.byteAt a :=
  Memory.read_write_ne _ _ fun e => h (BitVec.eq_of_toNat_eq e)

theorem State.wf_store (s : State) (off : Offset) (v : Byte) (h : s.mem.wf) :
    (s.store off v).mem.wf := Memory.wf_write_offset off v h

theorem State.wf_storeWord (s : State) (off : Offset) (v : Word32) (h : s.mem.wf) :
    (s.storeWord off v).mem.wf :=
  State.wf_store _ _ _ (State.wf_store _ _ _ (State.wf_store _ _ _ (State.wf_store _ _ _ h)))

@[simp] theorem State.byteAt_emit (s : State) (e : BusEvent) (a : Offset) :
    (s.emit e).byteAt a = s.byteAt a := rfl

@[simp] theorem State.byteAt_goto (s : State) (p : Phase) (a : Offset) :
    (s.goto p).byteAt a = s.byteAt a := rfl

@[simp] theorem State.byteAt_respond (s : State) (st : Status) (c : Cause) (d : List Byte)
    (a : Offset) : (s.respond st c d).byteAt a = s.byteAt a := rfl

/-- The four bytes of a 32-bit store, and the window outside them. -/
theorem State.byteAt_storeWord (s : State) (off a : Offset) (v : Word32) (h : s.mem.wf) :
    (s.storeWord off v).byteAt a =
      if a = off + 3 then v.extractLsb' 24 8
      else if a = off + 2 then v.extractLsb' 16 8
      else if a = off + 1 then v.extractLsb' 8 8
      else if a = off then v.extractLsb' 0 8
      else s.byteAt a := by
  unfold State.storeWord
  have h1 := State.wf_store s off (v.extractLsb' 0 8) h
  have h2 := State.wf_store _ (off + 1) (v.extractLsb' 8 8) h1
  have h3 := State.wf_store _ (off + 2) (v.extractLsb' 16 8) h2
  rw [State.byteAt_store _ _ _ _ h3, State.byteAt_store _ _ _ _ h2,
    State.byteAt_store _ _ _ _ h1, State.byteAt_store _ _ _ _ h]

/-- A 32-bit store changes nothing of the state but the window. -/
theorem State.storeWord_eq (s : State) (off : Offset) (v : Word32) :
    s.storeWord off v = { s with mem := (s.storeWord off v).mem } := rfl

end Sys2Proof.Machine
end

