-- ==== Sys2Proof/Laws/Phases.lean ====
section
/-!
SUPPORT. Each phase's step with the window mapped, as one explicit next state: the lemma later proofs
cite instead of unfolding the phase.
-/
namespace Sys2Proof.Machine

variable {s : State}

theorem readStat_of_mapped (next : State → State) (h : s.mapped = true) :
    readStat s next =
      .next (next { s.emit (.rd8 Config.offStat (s.byteAt Config.offStat)) with
        tmp := s.byteAt Config.offStat }) := by
  simp [readStat, rd8_of_mapped _ h]

theorem withIdx_of_lt (f : Fin 1020 → Result) (h : s.idx.toNat < 1020) :
    withIdx s f = f ⟨s.idx.toNat, h⟩ := by
  simp [withIdx, h]

theorem State.nextIdx_end (atEnd : State → State) (h : s.idx = 1019#10) :
    s.nextIdx atEnd = atEnd s := by
  simp [State.nextIdx, h]

theorem State.nextIdx_more (atEnd : State → State) (h : s.idx ≠ 1019#10) :
    s.nextIdx atEnd = { s with idx := s.idx + 1 } := by
  simp [State.nextIdx, h]

/-- Below 1019 the index counts up by one, without wrapping (R40). -/
theorem idx_succ_toNat (h : s.idx.toNat < 1019) : (s.idx + 1).toNat = s.idx.toNat + 1 := by
  have := s.idx.isLt
  simp [BitVec.toNat_add]
  omega

/-! ## Register access -/

theorem phaseGRd_of_mapped (h : s.mapped = true) :
    phaseGRd s = .next ((s.emit (.rd8 s.sel.offset (s.byteAt s.sel.offset))).respond .ok .none
      [s.byteAt s.sel.offset]) := by
  simp [phaseGRd, rd8_of_mapped _ h]

theorem phaseSWr_of_mapped (h : s.mapped = true) :
    phaseSWr s = .next (((s.store s.sel.offset s.tmp).emit (.wr8 s.sel.offset s.tmp)).respond
      .ok .none []) := by
  simp [phaseSWr, wr8_of_mapped _ _ h]

theorem readLoop_of_mapped (base : Offset) (h : s.mapped = true) (hi : s.idx.toNat < 1020) :
    readLoop base s =
      .next (((s.emit (.rd8 (s.idxOffset base) (s.byteAt (s.idxOffset base)))).putStage
        ⟨s.idx.toNat, hi⟩ (s.byteAt (s.idxOffset base))).nextIdx
          fun t => t.respond .ok .none t.stage.toList) := by
  simp [readLoop, withIdx_of_lt _ hi, rd8_of_mapped _ h]

/-! ## Buffer transfer -/

theorem phaseXbPreWr_of_mapped (h : s.mapped = true) :
    phaseXbPreWr s = .next (((s.store Config.offStat (preClearValue s.tmp)).emit
      (.wr8 Config.offStat (preClearValue s.tmp))).goto .xData) := by
  simp [phaseXbPreWr, wr8_of_mapped _ _ h]

theorem phaseXData_of_mapped (h : s.mapped = true) (hi : s.idx.toNat < 1020) :
    phaseXData s =
      .next (((s.store (s.idxOffset s.ch.base) (s.stage.get ⟨s.idx.toNat, hi⟩)).emit
        (.wr8 (s.idxOffset s.ch.base) (s.stage.get ⟨s.idx.toNat, hi⟩))).nextIdx
          fun u => u.goto .xBell) := by
  simp [phaseXData, withIdx_of_lt _ hi, wr8_of_mapped _ _ h]

theorem phaseXBell_of_mapped (h : s.mapped = true) :
    phaseXBell s = .next (((s.store Config.offFff Config.doorbellVal).emit
      (.wr8 Config.offFff Config.doorbellVal)).goto .xSt1) := by
  simp [phaseXBell, wr8_of_mapped _ _ h]

theorem phaseXNudge_of_mapped (h : s.mapped = true) :
    phaseXNudge s = .next (((s.store Config.offStat (nudgeValue s.tmp)).emit
      (.wr8 Config.offStat (nudgeValue s.tmp))).respond .ok .none []) := by
  simp [phaseXNudge, wr8_of_mapped _ _ h]

/-! ## Reset sequencer -/

theorem zeroLoop_of_mapped (base : Offset) (atEnd : State → State) (h : s.mapped = true)
    (hi : s.idx.toNat < 1020) :
    zeroLoop base atEnd s =
      .next (((s.store (s.idxOffset base) 0#8).emit (.wr8 (s.idxOffset base) 0#8)).nextIdx
        atEnd) := by
  simp [zeroLoop, withIdx_of_lt _ hi, wr8_of_mapped _ _ h]

theorem phaseRsSettle_bootp (h : s.mapped = true) (hi : s.iter.toNat < 30000) (hs : s.sub = 0#2) :
    phaseRsSettle s = .next { (s.store Config.offBootp 0#8).emit (.wr8 Config.offBootp 0#8) with
      sub := 1#2 } := by
  simp [phaseRsSettle, hi, hs, wr8_of_mapped _ _ h]

theorem phaseRsSettle_bufB (h : s.mapped = true) (hi : s.iter.toNat < 30000) (hs : s.sub = 1#2) :
    phaseRsSettle s =
      .next { (s.storeWord Config.offBufB 0#32).emit (.wr32 Config.offBufB 0#32) with
        sub := 2#2 } := by
  simp [phaseRsSettle, hi, hs, wr32_of_mapped _ h aligned32_bufB]

theorem phaseRsSettle_bufA (h : s.mapped = true) (hi : s.iter.toNat < 30000) (hs : s.sub = 2#2) :
    phaseRsSettle s =
      .next ((s.storeWord Config.offBufA 0#32).emit (.wr32 Config.offBufA 0#32)).nextIter := by
  simp [phaseRsSettle, hi, hs, wr32_of_mapped _ h aligned32_bufA]

theorem phaseRsRun_of_mapped (h : s.mapped = true) :
    phaseRsRun s = .next (((s.store Config.offBootp Config.bootpRun).emit
      (.wr8 Config.offBootp Config.bootpRun)).goto .rsStRd) := by
  simp [phaseRsRun, wr8_of_mapped _ _ h]

theorem phaseRsStWr_of_mapped (h : s.mapped = true) :
    phaseRsStWr s = .next (((s.store Config.offStat (resetStatValue s.tmp)).emit
      (.wr8 Config.offStat (resetStatValue s.tmp))).goto .rsStA0) := by
  simp [phaseRsStWr, wr8_of_mapped _ _ h]

theorem phaseRsStA0_of_mapped (h : s.mapped = true) :
    phaseRsStA0 s = finishReset ((s.store Config.offStat Config.statBKeep).emit
      (.wr8 Config.offStat Config.statBKeep)) := by
  simp [phaseRsStA0, wr8_of_mapped _ _ h]

/-! ## Interrupt service -/

theorem recordDiag_of_mapped (off : Offset) (k : Fin 6) (next : State → State)
    (h : s.mapped = true) :
    recordDiag off k next s =
      .next (next ((s.emit (.rd8 off (s.byteAt off))).putDiag k (s.byteAt off))) := by
  simp [recordDiag, rd8_of_mapped _ h]

theorem phaseIqWr_of_mapped (h : s.mapped = true) :
    phaseIqWr s = .next { (s.store Config.offStat (ackValue s.tmp)).emit
      (.wr8 Config.offStat (ackValue s.tmp)) with sub := 0#2, pc := .iqPost } := by
  simp [phaseIqWr, wr8_of_mapped _ _ h]

/-! ## Lifecycle -/

theorem phaseAtDipsw_of_mapped (h : s.mapped = true) :
    phaseAtDipsw s = .next ((s.store Config.offDipsw s.params.dipswInit).emit
      (.wr8 Config.offDipsw s.params.dipswInit)).enterReset := by
  simp [phaseAtDipsw, wr8_of_mapped _ _ h]

end Sys2Proof.Machine
end

