-- ==== Sys2Proof/Laws/Run.lean ====
section
/-!
SUPPORT. What one step is on each turn, and how runs compose.
-/
namespace Sys2Proof.Machine

variable {s : State}

/-! ## One step -/

/-- A busy engine does its phase's step, whatever choice its turn names: the arbiter is not asked. -/
theorem engineStep_busy {pick : Option Nat} (hb : s.pc ≠ .idle) : engineStep pick s = phaseStep s := by
  simp [engineStep, hb]

/-- An idle engine asks the arbiter. -/
theorem engineStep_idle {pick : Option Nat} (hb : s.pc = .idle) :
    engineStep pick s = arbitrate pick s := by
  simp [engineStep, hb]

/-- Under a quiescent environment a busy engine does its phase's step. -/
theorem step_busy (hq : s.turns = []) (hb : s.pc ≠ .idle) : step s = phaseStep s := by
  simp [step, takeTurn, hq, engineStep, hb]

/-- Under a quiescent environment an idle engine asks the arbiter. -/
theorem step_idle (hq : s.turns = []) (hb : s.pc = .idle) : step s = arbitrate none s := by
  simp [step, takeTurn, hq, engineStep, hb]

theorem step_engine {k : Nat} {rest : List Turn} (h : s.turns = .engine k :: rest) :
    step s = engineStep (some k) { s with turns := rest } := by
  simp [step, takeTurn, h]

theorem step_target {w : List (Offset × Byte)} {q : Bool} {rest : List Turn}
    (h : s.turns = .target w q :: rest) :
    step s = .next (targetStep w q { s with turns := rest }) := by
  simp [step, takeTurn, h]

theorem step_offer {p : Port} {r : Request} {rest : List Turn}
    (h : s.turns = .offer p r :: rest) :
    step s = .next (offerOn p r { s with turns := rest }) := by
  simp [step, takeTurn, h]

/-- Everything one step can be: an engine step, a target step or an offer, after the turn is taken
off the list. -/
theorem step_cases {t : State} (h : step s = .next t) :
    (s.turns = [] ∧ engineStep none s = .next t) ∨
    (∃ k rest, s.turns = .engine k :: rest ∧
      engineStep (some k) { s with turns := rest } = .next t) ∨
    (∃ w q rest, s.turns = .target w q :: rest ∧ t = targetStep w q { s with turns := rest }) ∨
    (∃ p r rest, s.turns = .offer p r :: rest ∧ t = offerOn p r { s with turns := rest }) := by
  unfold step takeTurn at h
  split at h
  · exact .inl ⟨‹_›, h⟩
  · exact .inr (.inl ⟨_, _, ‹_›, h⟩)
  · exact .inr (.inr (.inl ⟨_, _, _, ‹_›, by simpa using h.symm⟩))
  · exact .inr (.inr (.inr ⟨_, _, _, ‹_›, by simpa using h.symm⟩))

/-- Everything the arbiter can do: nothing, or accept one of the candidates, at most counting a
draw. -/
theorem arbitrate_cases {pick : Option Nat} {t : State} (h : arbitrate pick s = .next t) :
    (candidates s = [] ∧ t = s) ∨
    ∃ o ∈ candidates s, ∃ d, accept { s with draws := d } o = .next t := by
  unfold arbitrate at h
  split at h
  · exact .inl ⟨‹_›, by simpa using h.symm⟩
  · rename_i c hc
    exact .inr ⟨c, by simp [hc], s.draws, h⟩
  · rename_i c d cs hc
    have inside : ∀ k, (c :: d :: cs).getD (k % (cs.length + 2)) c ∈ candidates s := by
      intro k
      have hk : k % (cs.length + 2) < (c :: d :: cs).length := by
        simpa using Nat.mod_lt k (Nat.succ_pos _)
      rw [hc, List.getD_eq_getElem _ _ hk]
      exact List.getElem_mem hk
    split at h
    · exact .inr ⟨_, inside _, s.draws, h⟩
    · exact .inr ⟨_, inside _, s.draws + 1, h⟩

theorem mem_candidates {o : Offered} :
    o ∈ candidates s ↔ ∃ r, offeredRequest s o = some r ∧ gateOpen s (offeredPort o) r = true := by
  have listed : ∀ r, offeredRequest s o = some r →
      o ∈ (List.range s.cmdReqs.length).map Offered.cmd ++ [Offered.irq, Offered.life] := by
    intro r hr
    cases o with
    | cmd k =>
      obtain ⟨hk, -⟩ := List.getElem?_eq_some_iff.1 (show s.cmdReqs[k]? = some r from hr)
      simp [hk]
    | irq => simp
    | life => simp
  unfold candidates acceptable
  rw [List.mem_filter]
  constructor
  · rintro ⟨-, h⟩
    split at h
    · exact ⟨_, ‹_›, h⟩
    · cases h
  · rintro ⟨r, hr, hg⟩
    exact ⟨listed r hr, by rw [hr]; exact hg⟩

/-- The gate of a lifecycle request reads two flags and nothing else of the state. -/
theorem lifeGate_congr {t : State} (r : Request) (hm : s.mapped = t.mapped)
    (hs : s.surface = t.surface) : lifeGate s r = lifeGate t r := by
  simp [lifeGate, hm, hs]

/-! ## Runs -/

@[simp] theorem run_zero (s : State) : run 0 s = .next s := rfl

theorem run_succ (n : Nat) (s : State) : run (n + 1) s = andThen (step s) (run n) := rfl

theorem run_add (m n : Nat) (s : State) : run (m + n) s = andThen (run m s) (run n) := by
  induction m generalizing s with
  | zero => simp
  | succ m ih =>
    rw [Nat.succ_add, run_succ, run_succ, andThen_assoc]
    exact congrArg (andThen (step s)) (funext fun t => ih t)

theorem run_one (s : State) : run 1 s = step s := by
  rw [run_succ]
  cases step s <;> rfl

/-- A step followed by a run. -/
theorem run_of_step {n : Nat} {t : State} (h : step s = .next t) : run (n + 1) s = run n t := by
  rw [run_succ, h, andThen_next]

end Sys2Proof.Machine
end

