-- ==== Sys2Proof/Laws/Boards.lean ====
section
/-!
SUPPORT. What one step of a board can do to each board, and the equations of a run of several boards.
-/
namespace Sys2Proof.Machine

variable {n : Nat} {b c : Boards n}

@[simp] theorem Boards.get_reset (k : Fin n) : (Boards.reset n).get k = State.reset := by
  simp [Boards.reset, Vector.get]

@[simp] theorem Boards.get_single (s : State) (k : Fin 1) : (Boards.single s).get k = s := by
  simp [Boards.single, Vector.get]

theorem Boards.get_set_same (b : Boards n) (k : Fin n) (t : State) :
    (b.set k.val t k.isLt).get k = t := by
  show (b.set k.val t k.isLt)[k.val] = t
  simp

theorem Boards.get_set_ne (b : Boards n) {j k : Fin n} (t : State) (h : j ≠ k) :
    (b.set k.val t k.isLt).get j = b.get j := by
  have hv : k.val ≠ j.val := fun e => h (Fin.ext e.symm)
  show (b.set k.val t k.isLt)[j.val] = b[j.val]
  simp [Vector.getElem_set_ne, hv]

/-- Everything a step of board `k` can do: that board's own step, and nothing to the others. -/
theorem boardsStep_cases {k : Fin n} (h : boardsStep k b = .next c) :
    step (b.get k) = .next (c.get k) ∧ ∀ j, j ≠ k → c.get j = b.get j := by
  unfold boardsStep at h
  cases hs : step (b.get k) with
  | next t =>
    rw [hs] at h
    cases h
    exact ⟨by rw [Boards.get_set_same], fun j hj => Boards.get_set_ne b t hj⟩
  | fault r => rw [hs] at h; cases h
  | refused r => rw [hs] at h; cases h

/-- A board's own step, made on its board. -/
theorem boardsStep_of_step {k : Fin n} {t : State} (h : step (b.get k) = .next t) :
    boardsStep k b = .next (b.set k.val t k.isLt) := by
  rw [boardsStep, h, andThen_next]

@[simp] theorem boardsRun_nil (b : Boards n) : boardsRun [] b = .next b := rfl

theorem boardsRun_cons (k : Fin n) (ks : List (Fin n)) (b : Boards n) :
    boardsRun (k :: ks) b = andThen (boardsStep k b) (boardsRun ks) := rfl

end Sys2Proof.Machine
end

