-- ==== Sys2Proof/Laws/Decode.lean ====
section
/-!
SUPPORT. The fields of a word built by `cw48`, which the encoder's words are.
-/
namespace Sys2Proof

theorem opcField_cw48 (opc : BitVec 8) (np : Bool) (arg : Word32) :
    opcField (cw48 opc np arg) = opc := by
  unfold opcField cw48
  ext i hi
  simp only [BitVec.getElem_extractLsb', BitVec.getLsbD_append]
  simp [show ¬ 40 + i < 32 by omega, show ¬ 40 + i - 32 < 1 by omega,
    show ¬ 40 + i - 32 - 1 < 7 by omega, show 40 + i - 32 - 1 - 7 = i by omega,
    BitVec.getLsbD_eq_getElem hi]

theorem rsvField_cw48 (opc : BitVec 8) (np : Bool) (arg : Word32) :
    rsvField (cw48 opc np arg) = 0#7 := by
  unfold rsvField cw48
  ext i hi
  simp only [BitVec.getElem_extractLsb', BitVec.getLsbD_append]
  simp [show ¬ 33 + i < 32 by omega, show ¬ 33 + i - 32 < 1 by omega,
    show 33 + i - 32 - 1 < 7 by omega]

theorem npField_cw48 (opc : BitVec 8) (np : Bool) (arg : Word32) :
    npField (cw48 opc np arg) = np := by
  unfold npField cw48
  simp only [BitVec.getLsbD_append]
  simp

theorem argField_cw48 (opc : BitVec 8) (np : Bool) (arg : Word32) :
    argField (cw48 opc np arg) = arg := by
  unfold argField cw48
  ext i hi
  simp only [BitVec.getElem_extractLsb', BitVec.getLsbD_append]
  simp [hi]

/-- The decoder on a word built from its fields. -/
theorem decode_cw48 (opc : BitVec 8) (np : Bool) (arg : Word32) (payload : List Byte) :
    decode (cw48 opc np arg) payload = decodeOpc opc np arg payload := by
  simp [decode, rsvField_cw48, opcField_cw48, npField_cw48, argField_cw48]

/-- One row of the decoder: it answers, or the rest of the table does. -/
theorem row_ok {c : Prop} [Decidable c] {j i : Instr} {rest : Except DecodeReject Instr}
    (h : (if c then .ok j else rest) = .ok i) : (c ∧ j = i) ∨ rest = .ok i := by
  by_cases hc : c
  · rw [if_pos hc] at h
    exact .inl ⟨hc, by cases h; rfl⟩
  · rw [if_neg hc] at h
    exact .inr h

/-- What an opcode selects: a command of that opcode, and for a transfer its length and the first `ARG`
bytes of what follows. -/
theorem decodeOpc_ok {opc : BitVec 8} {np : Bool} {arg : Word32} {p : List Byte} {i : Instr}
    (h : decodeOpc opc np arg p = .ok i) :
    opc = i.opc ∧
      (∀ len data, i = .xferA len data ∨ i = .xferB len data →
        len = arg ∧ data = p.take arg.toNat) := by
  unfold decodeOpc at h
  iterate 20
    rcases row_ok h with ⟨ho, hi⟩ | h'
    · refine ⟨by rw [← hi]; exact ho, fun len data hx => ?_⟩
      subst hi
      rcases hx with hx | hx <;> cases hx <;> exact ⟨rfl, rfl⟩
    clear h
    rename' h' => h
  cases h

/-- What a decoded word holds: a zero `RSV` field, the command's opcode, and for a transfer its length
and the first `ARG` bytes of what follows. -/
theorem decode_ok {w : CmdWord} {p : List Byte} {i : Instr} (h : decode w p = .ok i) :
    rsvField w = 0#7 ∧ opcField w = i.opc ∧
      (∀ len data, i = .xferA len data ∨ i = .xferB len data →
        len = argField w ∧ data = p.take (argField w).toNat) := by
  unfold decode at h
  by_cases hr : rsvField w = 0#7
  · rw [if_pos hr] at h
    exact ⟨hr, decodeOpc_ok h⟩
  · rw [if_neg hr] at h
    cases h

theorem encodeOperand_fields (o : BitVec 8) (v : Operand) :
    opcField (encodeOperand o v) = o ∧ rsvField (encodeOperand o v) = 0#7 := by
  cases v <;> exact ⟨opcField_cw48 .., rsvField_cw48 ..⟩

theorem cw48_fields (o : BitVec 8) (np : Bool) (arg : Word32) :
    opcField (cw48 o np arg) = o ∧ rsvField (cw48 o np arg) = 0#7 :=
  ⟨opcField_cw48 .., rsvField_cw48 ..⟩

/-- The word of every command carries its opcode and zeros in the reserved field. -/
theorem encodeWord_fields (i : Instr) :
    opcField (encodeWord i) = i.opc ∧ rsvField (encodeWord i) = 0#7 := by
  cases i with
  | setBootp v => exact encodeOperand_fields _ v
  | setStat v => exact encodeOperand_fields _ v
  | setDipsw v => exact encodeOperand_fields _ v
  | setFfe v => exact encodeOperand_fields _ v
  | setFff v => exact encodeOperand_fields _ v
  | reset v => exact encodeOperand_fields _ v
  | _ => exact cw48_fields _ _ _

end Sys2Proof
end

