-- ==== Sys2Proof/Laws/PerInstr.lean ====
section
/-!
SUPPORT. Statements about every command, one lemma per constructor. `EncodesRow`: the word the encoder
writes selects the command's own row of the opcode table (30_encoding.md R93, R94).
-/
namespace Sys2Proof.Laws.EncodesRow

/-- R94: the word matches the row `OPC << 40` under the mask of every row. -/
def Statement (i : Instr) : Prop :=
  encodeWord i &&& 0xFFFE00000000#48 = i.opc.setWidth 48 <<< 40

theorem maskBit : ∀ j : Fin 48, (0xFFFE00000000#48 : BitVec 48)[j.val] = decide (33 ≤ j.val) := by
  decide

/-- The mask of R94 keeps `OPC` and `RSV` of a word, and `RSV` is 0. -/
theorem masked_cw48 (opc : BitVec 8) (np : Bool) (arg : Word32) :
    cw48 opc np arg &&& 0xFFFE00000000#48 = opc.setWidth 48 <<< 40 := by
  unfold cw48
  ext i hi
  have hmask := maskBit ⟨i, hi⟩
  simp only at hmask
  simp only [BitVec.getElem_and, hmask, BitVec.getElem_shiftLeft, BitVec.getElem_append]
  by_cases h1 : i < 33
  · simp [show ¬ 33 ≤ i by omega, show i < 40 by omega]
  · by_cases h2 : i < 40
    · simp [h2, show ¬ i < 32 by omega, show ¬ i - 32 < 1 by omega,
        show i - 32 - 1 < 7 by omega]
    · simp [h2, show ¬ i < 32 by omega, show ¬ i - 32 < 1 by omega, show 33 ≤ i by omega,
        show ¬ i - 32 - 1 < 7 by omega, show i - 32 - 1 - 7 = i - 40 by omega,
        BitVec.getLsbD_eq_getElem (show i - 40 < 8 by omega)]

theorem masked_encodeOperand (opc : BitVec 8) (v : Operand) :
    encodeOperand opc v &&& 0xFFFE00000000#48 = opc.setWidth 48 <<< 40 := by
  cases v <;> exact masked_cw48 ..

theorem getBootp : Statement .getBootp := masked_cw48 ..
theorem getStat : Statement .getStat := masked_cw48 ..
theorem getDipsw : Statement .getDipsw := masked_cw48 ..
theorem getFfe : Statement .getFfe := masked_cw48 ..
theorem getFff : Statement .getFff := masked_cw48 ..
theorem setBootp (v : Operand) : Statement (.setBootp v) := masked_encodeOperand ..
theorem setStat (v : Operand) : Statement (.setStat v) := masked_encodeOperand ..
theorem setDipsw (v : Operand) : Statement (.setDipsw v) := masked_encodeOperand ..
theorem setFfe (v : Operand) : Statement (.setFfe v) := masked_encodeOperand ..
theorem setFff (v : Operand) : Statement (.setFff v) := masked_encodeOperand ..
theorem rdA : Statement .rdA := masked_cw48 ..
theorem rdB : Statement .rdB := masked_cw48 ..
theorem xferA (len : Word32) (data : List Byte) : Statement (.xferA len data) := masked_cw48 ..
theorem xferB (len : Word32) (data : List Byte) : Statement (.xferB len data) := masked_cw48 ..
theorem getBufsize : Statement .getBufsize := masked_cw48 ..
theorem getZeropage : Statement .getZeropage := masked_cw48 ..
theorem reset (n : Operand) : Statement (.reset n) := masked_encodeOperand ..
theorem irqSvc : Statement .irqSvc := masked_cw48 ..
theorem attach (mapOk irqOk : Bool) : Statement (.attach mapOk irqOk) := masked_cw48 ..
theorem detach : Statement .detach := masked_cw48 ..

end Sys2Proof.Laws.EncodesRow
end

