-- ==== Sys2Proof/Tests/Slice0.lean ====
section
/-!
SUPPORT. Tests: the checks of WellFormed, a word of every command written out from 30_encoding.md and
95_test_vectors.md, one step of each phase against the spec's vectors, and a witness for the hypotheses
of each statement. Expected values are the spec's, cited by vector (T) or rule (R).
-/
namespace Sys2Proof.Tests

open Sys2Proof.Machine

/-! ## WellFormed refuses a payload of the wrong length (R92) -/

theorem test_wellFormed_xferA_short : (Instr.xferA 3#32 [0x01#8]).wellFormed = false := by decide
theorem test_wellFormed_xferB_long : (Instr.xferB 0#32 [0x01#8]).wellFormed = false := by decide
theorem test_wellFormed_xferA_exact : (Instr.xferA 1#32 [0x01#8]).wellFormed = true := by decide

/-! ## A word of every command (R93, R121 to R193) -/

theorem test_decode_getBootp : decode 0x000000000000#48 [] = .ok .getBootp := by rfl
theorem test_decode_getStat : decode 0x010000000000#48 [] = .ok .getStat := by rfl
theorem test_decode_getDipsw : decode 0x020000000000#48 [] = .ok .getDipsw := by rfl
theorem test_decode_getFfe : decode 0x030000000000#48 [] = .ok .getFfe := by rfl
theorem test_decode_getFff : decode 0x040000000000#48 [] = .ok .getFff := by rfl
theorem test_decode_setBootp : decode 0x1000000000FF#48 [] = .ok (.setBootp (.number 255#32)) := by rfl
theorem test_decode_setStat_text : decode 0x110100000000#48 [] = .ok (.setStat .notParsed) := by rfl
theorem test_decode_setDipsw : decode 0x120000000008#48 [] = .ok (.setDipsw (.number 8#32)) := by rfl
theorem test_decode_setFfe : decode 0x130000000012#48 [] = .ok (.setFfe (.number 18#32)) := by rfl
theorem test_decode_setFff :
    decode 0x1400FFFFFFFF#48 [] = .ok (.setFff (.number 4294967295#32)) := by rfl
theorem test_decode_rdA : decode 0x200000000000#48 [] = .ok .rdA := by rfl
theorem test_decode_rdB : decode 0x210000000000#48 [] = .ok .rdB := by rfl
theorem test_decode_xferA :
    decode 0x300000000002#48 [0xAA#8, 0xBB#8] = .ok (.xferA 2#32 [0xAA#8, 0xBB#8]) := by rfl
theorem test_decode_xferB_empty : decode 0x310000000000#48 [] = .ok (.xferB 0#32 []) := by rfl
theorem test_decode_getBufsize : decode 0x400000000000#48 [] = .ok .getBufsize := by rfl
theorem test_decode_getZeropage : decode 0x410000000000#48 [] = .ok .getZeropage := by rfl
theorem test_decode_reset : decode 0x5000000000FF#48 [] = .ok (.reset (.number 255#32)) := by rfl
theorem test_decode_irqSvc : decode 0x600000000000#48 [] = .ok .irqSvc := by rfl
theorem test_decode_attach : decode 0x700000000001#48 [] = .ok (.attach true false) := by rfl
theorem test_decode_detach : decode 0x710000000000#48 [] = .ok .detach := by rfl
/-- T61. -/
theorem test_decode_unlisted : decode 0x7F0000000000#48 [] = .error .unknownOpcode := by rfl
/-- T67: `RSV = 0x7F`. -/
theorem test_decode_reserved : decode 0x10FE00000100#48 [] = .error .reservedBits := by rfl

/-- T10 and T14, T20: the encoder writes the words of the spec. -/
theorem test_encode_set : encodeWord (.setBootp (.number 1#32)) = 0x100000000001#48 ∧
    encodeWord (.setStat (.number 160#32)) = 0x1100000000A0#48 ∧
    encodeWord (.setFff (.number 4294967295#32)) = 0x1400FFFFFFFF#48 := by decide
/-- T16, T30, T73. -/
theorem test_encode_others : encodeWord (.setStat .notParsed) = 0x110100000000#48 ∧
    encodeWord (.xferA 1020#32 []) = 0x3000000003FC#48 ∧
    encodeWord (.attach true true) = 0x700000000003#48 := by decide

/-- R94: the twenty opcodes are distinct, so at most one row matches. -/
theorem test_opcodes_distinct : allOpcodes.Pairwise (· ≠ ·) ∧ allOpcodes.length = 20 := by decide

/-- R100, R110: "256" and "abc", the empty text, and a saturated number. -/
theorem test_frontEnd : frontEndOperand parseDecimal ['2', '5', '6'] = .number 256#32 ∧
    frontEndOperand parseDecimal ['a', 'b', 'c'] = .notParsed ∧ frontEndOperand parseDecimal ['1', ' '] = .notParsed ∧
    frontEndOperand parseDecimal [] = .notParsed ∧
    frontEndOperand parseDecimal ['4', '2', '9', '4', '9', '6', '7', '2', '9', '9'] = .number 0xFFFFFFFF#32 := by
  decide

/-- R110: "12" and a newline, which the default grammar does not take, under a grammar that does. -/
theorem test_frontEnd_newline :
    frontEndOperand parseDecimal ['1', '2', '\n'] = .notParsed ∧
    frontEndRequest (fun t => parseDecimal (t.filter fun c => c ≠ '\n')) .setFfe ['1', '2', '\n'] =
      ⟨0x13000000000C#48, []⟩ ∧
    frontEndRequest parseDecimal .reset ['x'] = ⟨0x500100000000#48, []⟩ := by decide

/-! ## Small states -/

/-- An attached board, idle, in the start state of vectors T1 to T7. -/
def board : State := { State.reset with
  mapped := true, irqBound := true, surface := true
  mem := [(0x000, 0x01#8), (0x001, 0xA0#8), (0x002, 0x08#8), (0xFFE, 0x12#8)] }

/-- The board with `stat = v`. -/
def boardStat (v : Byte) : State := board.store 0x001#12 v

/-- What an outcome's next state shows of itself. -/
def seen {α : Type} (o : Result) (f : State → α) : Option α :=
  match o with
  | .next t => some (f t)
  | .fault _ => none
  | .refused _ => none

/-- The events and the response data of one step from `s`. -/
def lastAccess (o : Result) : Option (List BusEvent × List (Status × Cause × List Byte)) :=
  seen o fun t => (t.trace, t.responses.map fun r => (r.status, r.cause, r.data))

/-! ## One step against the vectors -/

/-- T1. -/
theorem test_getBootp : lastAccess (step { board with sel := .bootp, pc := .gRd }) =
    some ([.rd8 0x000#12 0x01#8], [(.ok, .none, [0x01#8])]) := by decide
/-- T2. -/
theorem test_getStat : lastAccess (step { board with sel := .stat, pc := .gRd }) =
    some ([.rd8 0x001#12 0xA0#8], [(.ok, .none, [0xA0#8])]) := by decide
/-- T3. -/
theorem test_getDipsw : lastAccess (step { board with sel := .dipsw, pc := .gRd }) =
    some ([.rd8 0x002#12 0x08#8], [(.ok, .none, [0x08#8])]) := by decide
/-- T4. -/
theorem test_getFfe : lastAccess (step { board with sel := .ffe, pc := .gRd }) =
    some ([.rd8 0xFFE#12 0x12#8], [(.ok, .none, [0x12#8])]) := by decide
/-- T5. -/
theorem test_getFff : lastAccess (step { board with sel := .fff, pc := .gRd }) =
    some ([.rd8 0xFFF#12 0x00#8], [(.ok, .none, [0x00#8])]) := by decide
/-- T7. -/
theorem test_getBufsize : lastAccess (exec .getBufsize board) =
    some ([], [(.ok, .none, [0xFC#8, 0x03#8])]) := by decide
/-- T26. -/
theorem test_getZeropage_absent :
    lastAccess (exec .getZeropage { board with params := { board.params with hasZeropage := false } })
      = some ([], [(.einval, .illegal, [])]) := by decide
/-- T12, T13. -/
theorem test_setBootp_255 :
    seen (exec (.setBootp (.number 255#32)) board) (fun t => (t.pc, t.tmp, t.sel)) =
      some (.sWr, 0xFF#8, .bootp) ∧
    lastAccess (exec (.setBootp (.number 256#32)) board) =
      some ([], [(.einval, .outOfRange, [])]) := by decide
/-- T14. -/
theorem test_setStat :
    seen (step { board with sel := .stat, tmp := 0xA0#8, pc := .sWr })
      (fun t => (t.trace, t.byteAt 0x001#12)) = some ([.wr8 0x001#12 0xA0#8], 0xA0#8) := by decide
/-- T17. -/
theorem test_setDipsw :
    seen (step { board with sel := .dipsw, tmp := 0x08#8, pc := .sWr })
      (fun t => (t.trace, t.byteAt 0x002#12)) = some ([.wr8 0x002#12 0x08#8], 0x08#8) := by decide
/-- T21. -/
theorem test_setFfe_notParsed : lastAccess (exec (.setFfe .notParsed) board) =
    some ([], [(.einval, .notDecimal, [])]) := by decide
/-- T19. -/
theorem test_setFff :
    seen (step { board with sel := .fff, tmp := 0x01#8, pc := .sWr })
      (fun t => (t.trace, t.byteAt 0xFFF#12, t.byteAt 0x001#12)) =
      some ([.wr8 0xFFF#12 0x01#8], 0x01#8, 0xA0#8) := by decide
/-- T34. -/
theorem test_xferA_1019 : lastAccess (exec (.xferA 1019#32 []) board) =
    some ([], [(.einval, .badLength, [])]) := by decide
/-- T34, channel B: `stat` is not read. -/
theorem test_xferB_0 : lastAccess (exec (.xferB 0#32 []) board) =
    some ([], [(.einval, .badLength, [])]) := by decide
/-- R145: the last data byte of channel B goes to 0xFFB, then the doorbell. -/
theorem test_xData_last :
    seen (step { board with ch := .b, idx := 1019#10, pc := .xData,
                            stage := board.stage.set 1019 0x04#8 })
      (fun t => (t.pc, t.trace)) = some (.xBell, [.wr8 0xFFB#12 0x04#8]) := by decide +kernel
/-- R146. -/
theorem test_xBell : seen (step { board with pc := .xBell }) (fun t => (t.pc, t.trace)) =
    some (.xSt1, [.wr8 0xFFF#12 0x01#8]) := by decide
/-- 95 part 2.4: what the pre-clear writes for what it reads. -/
theorem test_preClear : [0xFF#8, 0x5F#8, 0xA4#8, 0xA0#8, 0x80#8, 0x20#8, 0x00#8].map preClearValue =
    [0xA0#8, 0x00#8, 0xA0#8, 0xA0#8, 0x80#8, 0x20#8, 0x00#8] := by decide
/-- 95 part 2.5: the nudge runs exactly when bit 2 of the first read is set. -/
theorem test_nudge_condition : [0xA0#8, 0x00#8, 0xFB#8, 0x04#8, 0xA4#8, 0xFF#8].map statBit2Set =
    [false, false, false, true, true, true] := by decide
/-- 95 part 2.5: what the nudge writes for the second read. -/
theorem test_nudge_value : [0x04#8, 0xA4#8, 0xA0#8, 0xFB#8, 0x00#8].map nudgeValue =
    [0x04#8, 0xA4#8, 0xA4#8, 0xFF#8, 0x04#8] := by decide
/-- R150: the last byte of `RD_A` is read at 0xBFB. -/
theorem test_rdA_last : seen (step { board with ch := .a, idx := 1019#10, pc := .rb })
    (fun t => (t.pc, t.trace)) = some (.idle, [.rd8 0xBFB#12 0x00#8]) := by decide
/-- R151: `RD_B` starts at index 0 of channel B. -/
theorem test_rdB : seen (exec .rdB board) (fun t => (t.pc, t.ch, t.idx)) =
    some (.rb, .b, 0#10) := by decide
/-- T25: the third event of the zero page. -/
theorem test_getZeropage_third : seen (step { board with idx := 2#10, pc := .zp })
    (fun t => (t.pc, t.idx, t.trace)) = some (.zp, 3#10, [.rd8 0x002#12 0x08#8]) := by decide
/-- 95 part 2.7: what reset step 4 writes for what it reads. -/
theorem test_resetStat : [0x00#8, 0xFF#8, 0xA0#8, 0x0B#8, 0x5B#8, 0xA4#8].map resetStatValue =
    [0x04#8, 0xF4#8, 0xA4#8, 0x04#8, 0x54#8, 0xA4#8] := by decide
/-- T41. -/
theorem test_reset_2 : lastAccess (exec (.reset (.number 2#32)) board) =
    some ([], [(.einval, .outOfRange, [])]) := by decide
/-- 95 part 2.9: what the acknowledge writes for what it reads. -/
theorem test_ack : [0xA5#8, 0xF0#8, 0x0F#8, 0xFF#8, 0x00#8, 0xA4#8, 0xA0#8].map ackValue =
    [0x05#8, 0x00#8, 0x0F#8, 0x0F#8, 0x00#8, 0x04#8, 0x00#8] := by decide
/-- T50, the second event. -/
theorem test_irqSvc_second : seen (step { boardStat 0xA5#8 with sub := 1#2, pc := .iqPre })
    (fun t => (t.pc, t.sub, t.trace, t.diag.toList[1]?)) =
    some (.iqPre, 2#2, [.rd8 0x001#12 0xA5#8], some 0xA5#8) := by decide
/-- T70: the mapping is refused. -/
theorem test_attach_mapFail :
    lastAccess (step { State.reset with pc := .atMap, owner := .life, irqOk := true }) =
      some ([], [(.eres, .mapFail, [])]) := by decide
/-- R191: the dipsw-mode write enters the reset sequence. -/
theorem test_attach_dipsw : seen (step { board with
      pc := .atDipsw, surface := false, params := { board.params with dipswInit := 0x08#8 } })
    (fun t => (t.pc, t.trace)) = some (.rsZa, [.wr8 0x002#12 0x08#8]) := by decide
/-- R193: the surface goes first. -/
theorem test_detach_surface : seen (step { board with pc := .dtSurf })
    (fun t => (t.pc, t.surface, t.irqBound, t.mapped)) = some (.dtIrq, false, true, true) := by decide
/-- T63: `IRQ_SVC` on the command port is illegal. -/
theorem test_wrong_port : lastAccess (step { board with cmdReqs := [⟨0x600000000000#48, []⟩] }) =
    some ([], [(.einval, .illegal, [])]) := by decide
/-- T75: `DETACH` before attach has no step. -/
theorem test_closed_gate : seen (step { State.reset with lifeReq := some ⟨0x710000000000#48, []⟩ })
    (fun t => (t.pc, t.lifeReq.isSome, t.responses)) = some (.idle, true, []) := by decide
/-- A table word is placed and accepted by the next step. -/
theorem test_withFetchWord :
    seen (step (State.reset.withFetchWord 48 0x600000000000)) (fun t => (t.pc, t.owner)) =
      some (.iqPre, .irq) := by decide

/-! ## Witnesses: the hypotheses of each statement can be met together -/

/-- A payload of the right length. -/
def block : List Byte := List.replicate 1020 0x5A#8

theorem block_length : block.length = 1020 := List.length_replicate

/-- The attached board with one request on the command port. -/
def boardWith (w : CmdWord) : State := { board with cmdReqs := [⟨w, []⟩] }

theorem witness_DecodeOfEncodeIsTheCommand :
    (Instr.setFff (.number 0xFFFFFFFF#32)).wellFormed = true ∧
    (Instr.xferB 2#32 [0x00#8, 0xFF#8]).wellFormed = true := by decide
theorem witness_DecodeSelectsTheMatchingRow :
    decode 0x7101FFFFFFFF#48 [] = .ok .detach := by rfl
theorem witness_UnusedFieldsAreIgnored : 0x00#8 ∈ operandFree ∧ 0x71#8 ∈ operandFree := by decide
theorem witness_WordTellsCommandLength : (Instr.xferA 0#32 []).wellFormed = true := by decide
theorem witness_FrontEndParsesDecimals : (['0'] : List Char) ≠ [] ∧ 'x' ∈ ['1', 'x'] ∧
    '9' < 'x' ∧ '/' ∈ ['/'] ∧ '/' < '0' := by decide
theorem witness_ByteAccessIsPlainStorage : board.mapped = true ∧ board.mem.wf := by decide
theorem witness_WordAccess : board.mapped = true ∧ board.mem.wf ∧ (0xFFC#12 : Offset).toNat % 4 = 0 ∧
    (0xFFF#12 : Offset).toNat % 4 ≠ 0 := by decide
theorem witness_StepRunsTheDecodedCommand :
    (boardWith 0x010000000000#48).turns = [] ∧ (boardWith 0x010000000000#48).pc = .idle ∧
    candidates (boardWith 0x010000000000#48) = [.cmd 0] ∧
    offeredRequest (boardWith 0x010000000000#48) (.cmd 0) = some ⟨0x010000000000#48, []⟩ ∧
    decode 0x010000000000#48 [] = .ok .getStat ∧ Instr.getStat.port = offeredPort (.cmd 0) :=
  ⟨rfl, rfl, by decide, rfl, rfl, rfl⟩
/-- One word for each of the four grounds of R105. -/
theorem witness_IllegalWordIsRejected :
    candidates (boardWith 0x0002FFFFFFFF#48) = [.cmd 0] ∧ rsvField 0x0002FFFFFFFF#48 ≠ 0#7 ∧
    candidates (boardWith 0x050000000000#48) = [.cmd 0] ∧ opcField 0x050000000000#48 ∉ allOpcodes ∧
    candidates (boardWith 0x710000000000#48) = [.cmd 0] ∧ Instr.detach.port ≠ .cmd ∧
    candidates { boardWith 0x410000000000#48 with params := ⟨false, 0#8, []⟩ } = [.cmd 0] ∧
    opcField 0x410000000000#48 = 0x41#8 := by decide
theorem witness_ByteOperandIsValidated :
    255 < (256#32 : Word32).toNat ∧ (255#32 : Word32).toNat ≤ 255 := by decide
theorem witness_ResetOperandIsValidated : (0#32 : Word32) ≠ 1#32 ∧ (2#32 : Word32) ≠ 1#32 := by decide
theorem witness_WrongLengthTransferIsRejected :
    (1019#32 : Word32).toNat ≠ 1020 ∧ (1021#32 : Word32).toNat ≠ 1020 := by decide
theorem witness_AcceptanceTouchesOnlyWorkingRegisters : ∃ t, exec .irqSvc board = .next t :=
  ⟨_, rfl⟩
theorem witness_RejectionChangesNothingElse :
    ∃ t, exec (.setFfe .notParsed) board = .next t ∧ t.pc = .idle := ⟨_, rfl, rfl⟩
theorem witness_ClosedGateHasNoStep :
    State.reset.turns = [] ∧ State.reset.pc = .idle ∧
    (∀ o r, offeredRequest State.reset o = some r → gateOpen State.reset (offeredPort o) r = false) ∧
    decode 0x700000000003#48 [] = .ok (.attach true true) := by
  refine ⟨rfl, rfl, fun o r h => ?_, rfl⟩
  cases o <;> simp [offeredRequest, State.reset] at h
theorem witness_AnyOpenRequestMayBeAccepted :
    candidates { boardWith 0x010000000000#48 with irqReq := some ⟨0x600000000000#48, []⟩ } =
      [.cmd 0, .irq] := by decide
theorem witness_BusyEngineAcceptsNothing :
    (∃ t, engineStep (some 1) { boardWith 0#48 with pc := .dtSurf } = .next t) ∧
    ∃ t, engineStep none { boardWith 0#48 with pc := .gRd } = .next t := ⟨⟨_, rfl⟩, _, rfl⟩
theorem witness_GetReadsItsRegister : board.Quiet ∧ board.mapped = true := ⟨rfl, rfl⟩
theorem witness_SetWritesItsRegister : board.Quiet ∧ board.mapped = true ∧ board.mem.wf ∧
    (0#32 : Word32).toNat ≤ 255 ∧ (255#32 : Word32).toNat ≤ 255 :=
  ⟨rfl, rfl, by decide, by decide, by decide⟩
theorem witness_GetReturnsWhatSetStored : board.Quiet ∧ board.mapped = true ∧ board.mem.wf ∧
    (255#32 : Word32).toNat ≤ 255 ∧ 255 < (256#32 : Word32).toNat :=
  ⟨rfl, rfl, by decide, by decide, by decide⟩
theorem witness_ZeroPage : board.Quiet ∧ board.mapped = true ∧ board.params.hasZeropage = true ∧
    ({ board with params := ⟨false, 0#8, []⟩ } : State).params.hasZeropage = false :=
  ⟨rfl, rfl, rfl, rfl⟩
theorem witness_BufferReadReturnsTheBuffer : board.Quiet ∧ board.mapped = true := ⟨rfl, rfl⟩
theorem witness_DataStep :
    let s : State := { board with idx := 1019#10, pc := .xData }
    s.idx.toNat < 1020 ∧ s.mapped = true ∧ s.mem.wf ∧ s.pc = .xData := by decide
/-- Both ways of the nudge: bit 2 of `stat` clear and set. -/
theorem witness_Transfer : board.Quiet ∧ board.mapped = true ∧ board.mem.wf ∧ block.length = 1020 ∧
    (board.byteAt Config.offStat).getLsbD 2 = false ∧ (boardStat 0xA4#8).mem.wf ∧
    ((boardStat 0xA4#8).byteAt Config.offStat).getLsbD 2 = true :=
  ⟨rfl, rfl, by decide, block_length, by decide, by decide, by decide⟩
theorem witness_NudgeSteps : (boardStat 0x04#8).mapped = true ∧ (boardStat 0x04#8).mem.wf ∧
    ((boardStat 0x04#8).byteAt 0x001#12).getLsbD 2 = true ∧
    ((boardStat 0xFB#8).byteAt 0x001#12).getLsbD 2 = false := by decide
theorem witness_NudgeCondition :
    let s : State := { boardStat 0xA4#8 with
      pc := .xSt1
      turns := [.engine 0, .target [(0x001#12, 0xA0#8)] false, .engine 0, .engine 0] }
    s.mapped = true ∧ s.mem.wf ∧ s.pc = .xSt1 ∧ (s.byteAt 0x001#12).getLsbD 2 = true ∧
      0x001#12 ∉ s.params.targetReadOnly := by decide
/-- The phase and the function of each of the four sequences, and a state for the last. -/
theorem witness_LostUpdate :
    let s : State := { boardStat 0x01#8 with
      pc := .iqRd
      turns := [.engine 0, .target [(0x001#12, 0x03#8)] false, .engine 0] }
    (Phase.iqRd, fun v : Byte => v &&& 0x0F#8) ∈
      [(Phase.xbPreRd, fun v : Byte => v &&& 0xA0#8), (Phase.xSt2, fun v => v ||| 0x04#8),
        (Phase.rsStRd, fun v => (v &&& 0xF0#8) ||| 0x04#8), (Phase.iqRd, fun v => v &&& 0x0F#8)] ∧
    s.mapped = true ∧ s.mem.wf ∧ s.pc = .iqRd ∧
    s.turns = [.engine 0, .target [(0x001#12, 0x03#8)] false, .engine 0] ++ [] :=
  ⟨by simp, rfl, by decide, rfl, rfl⟩
theorem witness_ConcurrentTransfers :
    let s : State := { board with
      cmdReqs := [⟨0x3000000003FC#48, block⟩, ⟨0x3000000003FC#48, block⟩] }
    s.Quiet ∧ s.pc = .idle ∧ s.mapped = true ∧ s.surface = true ∧ s.mem.wf ∧
      block.length = 1020 ∧ s.irqReq = none ∧ s.lifeReq = none :=
  ⟨rfl, rfl, rfl, rfl, by decide, block_length, rfl, rfl⟩
theorem witness_ZeroingSteps : ({ board with idx := 0#10, pc := .rsZa } : State).idx.toNat < 1020 ∧
    ({ board with idx := 1019#10, pc := .rsZb } : State).idx.toNat < 1020 ∧
    board.mapped = true ∧ board.mem.wf := by decide
theorem witness_Settling :
    let s : State := { board with pc := .rsSettle, sub := 0#2, iter := 29999#15 }
    s.turns = [] ∧ s.mapped = true ∧ s.mem.wf ∧ s.sub = 0#2 ∧ s.iter.toNat < 30000 :=
  ⟨rfl, rfl, by decide, rfl, by decide⟩
theorem witness_ReleaseAndStat :
    let s : State := { board with pc := .rsRun, owner := .life }
    s.Quiet ∧ s.mapped = true ∧ s.mem.wf ∧ s.pc = .rsRun ∧ s.owner ≠ .irq ∧ board.owner = .cmd :=
  ⟨rfl, rfl, by decide, rfl, by decide, rfl⟩
theorem witness_ResetSequence : board.Quiet ∧ board.mapped = true ∧ board.mem.wf ∧
    board.owner = .cmd := ⟨rfl, rfl, by decide, rfl⟩
theorem witness_InterruptService : board.Quiet ∧ board.mapped = true ∧ board.mem.wf :=
  ⟨rfl, rfl, by decide⟩
theorem witness_Attach :
    let s : State := { State.reset with mem := [(0x001, 0x5B#8), (0x800, 0xFF#8)] }
    s.Quiet ∧ s.mem.wf ∧ s.mapped = false ∧ s.irqBound = false ∧ s.surface = false :=
  ⟨rfl, by decide, rfl, rfl, rfl⟩
theorem witness_Detach : board.Quiet ∧ board.mapped = true ∧ board.irqBound = true ∧
    board.surface = true := ⟨rfl, rfl, rfl, rfl⟩
theorem witness_LifecycleFlags :
    ∃ t, step { board with pc := .dtMap } = .next t ∧ t.mapped ≠ board.mapped := by
  refine ⟨_, rfl, ?_⟩
  decide
/-- A target step of three writes that names 0x801 between two others. -/
theorem witness_TargetStep :
    let w : List (Offset × Byte) := [(0x800#12, 0x77#8), (0x801#12, 0x78#8), (0xFFF#12, 0x00#8)]
    let s : State := { board with turns := [.target w true] }
    s.mem.wf ∧ (0x801#12, 0x78#8) ∈ w ∧ (∀ x ∈ w, x.1 = 0x801#12 → x.2 = 0x78#8) ∧
      0x801#12 ∉ s.params.targetReadOnly ∧
      0x001#12 ∈ (⟨true, 0#8, [0x001#12]⟩ : Params).targetReadOnly :=
  ⟨by decide, by simp, by simp, by decide, by decide⟩
theorem witness_Offers : board.surface = true ∧ board.irqBound = true ∧ board.irqReq = none ∧
    board.lifeReq = none ∧ ({ board with pc := .zp } : State).pc ≠ .idle ∧
    State.reset.surface = false ∧ State.reset.irqBound = false ∧
    ({ board with irqReq := some ⟨0#48, []⟩ } : State).irqReq ≠ none := by decide
/-- The gates of the lifecycle port at IDLE: `ATTACH` at instantiation (open) and on an attached board
(closed), `DETACH` at instantiation (closed). -/
theorem witness_LifeOffers : State.reset.pc = .idle ∧ State.reset.lifeReq = none ∧
    lifeGate State.reset ⟨0x700000000003#48, []⟩ = true ∧
    lifeGate board ⟨0x700000000003#48, []⟩ = false ∧
    lifeGate State.reset ⟨0x710000000000#48, []⟩ = false ∧
    board.pc = .idle ∧ board.lifeReq = none := ⟨rfl, rfl, rfl, rfl, rfl, rfl, rfl⟩
/-- A request that has a step and one that has none already on the port: `DETACH` on an attached board,
and `DETACH` at instantiation, where `ATTACH` takes its place. -/
theorem witness_LifeOffersFull :
    (let s : State := { board with lifeReq := some ⟨0x710000000000#48, []⟩ }
     s.pc = .idle ∧ lifeGate s ⟨0x710000000000#48, []⟩ = true) ∧
    let s : State := { State.reset with lifeReq := some ⟨0x710000000000#48, []⟩ }
    s.pc = .idle ∧ lifeGate s ⟨0x710000000000#48, []⟩ = false ∧
      lifeGate s ⟨0x700000000003#48, []⟩ = true := ⟨⟨rfl, rfl⟩, rfl, rfl, rfl⟩
/-- R207: the offer of `ATTACH` at instantiation is held. -/
theorem test_offer_attach : seen (step { State.reset with
      turns := [.offer .life ⟨0x700000000003#48, []⟩] }) (fun t => t.lifeReq.isSome) = some true := by
  rfl
/-- R75: a target step of two writes changes both bytes. -/
theorem test_target_two : seen (step { board with
      turns := [.target [(0x800#12, 0x77#8), (0x000#12, 0x00#8)] true] })
    (fun t => (t.byteAt 0x800#12, t.byteAt 0x000#12, t.byteAt 0x001#12, t.irqIn)) =
      some (0x77#8, 0x00#8, 0xA0#8, true) := by decide
theorem witness_InterruptLine : ∃ t, step { board with irqIn := true } = .next t := ⟨_, rfl⟩
theorem witness_WindowSteers : board.pc ≠ .xSt1 ∧ ∃ t, step board = .next t :=
  ⟨by decide, _, rfl⟩

/-- A board in the last data step of a transfer on channel B, with a request held on each port. -/
def busyBoard : State := { board with
  pc := .xData, ch := .b, idx := 1019#10, owner := .cmd
  cmdReqs := [⟨0x010000000000#48, []⟩], irqReq := some ⟨0x600000000000#48, []⟩
  lifeReq := some ⟨0x710000000000#48, []⟩
  turns := [.offer .cmd ⟨0x310000000001#48, [0x00#8]⟩] }

theorem busyBoard_inv : Inv busyBoard where
  memory := by decide
  flags := ⟨rfl, rfl, rfl⟩
  owner := rfl
  counters := by show (1019#10 : BitVec 10).toNat < 1020; decide
  cmdPort := fun _ => rfl
  irqPort := fun _ => rfl
  cmdReqs := by decide
  irqReq := by decide
  lifeReq := by decide
  turns := by decide

theorem busyBoard_step : ∃ t, step busyBoard = .next t := ⟨_, rfl⟩

/-- The same board with nothing more to come from outside. -/
theorem witness_EverySequenceEndsInIdle :
    Inv { busyBoard with turns := [] } ∧ ({ busyBoard with turns := [] } : State).Quiet :=
  ⟨{ busyBoard_inv with turns := by decide }, rfl⟩
/-- Its `X_DATA` step at index 1019 comes nearer to IDLE; its offer does not move it. -/
theorem witness_NearerToIdle : Inv busyBoard ∧ busyBoard.pc ≠ .idle ∧ stepsLeft busyBoard = 5 ∧
    (∃ t, engineStep none busyBoard = .next t) ∧
    busyBoard.turns = .offer .cmd ⟨0x310000000001#48, [0x00#8]⟩ :: [] ∧
    ∃ t, step busyBoard = .next t :=
  ⟨busyBoard_inv, by decide, by simp [stepsLeft, busyBoard],
    ⟨_, (engineStep_busy (by decide)).trans (phaseXData_of_mapped rfl busyBoard_inv.counters)⟩,
    rfl, busyBoard_step⟩
theorem witness_Invariant : Inv busyBoard ∧ ∃ t, step busyBoard = .next t :=
  ⟨busyBoard_inv, busyBoard_step⟩
theorem witness_OpenPorts : Inv busyBoard ∧ busyBoard.surface = true ∧ busyBoard.irqBound = true ∧
    busyBoard.pc ≠ .idle ∧ busyBoard.pc ≠ .atMap :=
  ⟨busyBoard_inv, rfl, rfl, by decide, by decide⟩
theorem witness_WindowTraced : board.mem.wf ∧ (∀ w q rest, board.turns ≠ .target w q :: rest) ∧
    ∃ t, step board = .next t :=
  ⟨by decide, fun _ _ _ h => (by cases h), _, rfl⟩
theorem witness_Hole : isHole 0x003#12 ∧ isHole 0x7FF#12 ∧ isHole 0xBFC#12 ∧ isHole 0xFFD#12 ∧
    ¬ isHole 0x800#12 ∧ ¬ isHole 0xFFE#12 := by
  simp [isHole]
theorem witness_Diag : ∃ t, step { board with pc := .iqPre } = .next t ∧ t.diag ≠ board.diag := by
  refine ⟨_, rfl, ?_⟩
  decide
theorem witness_Instantiation :
    State.AtInstantiation { State.reset with mem := [(0x001, 0x5B#8)], tmp := 0x99#8, owner := .irq } :=
  ⟨by decide, rfl, rfl, rfl, rfl, rfl, rfl, rfl, rfl, rfl, rfl⟩
/-- R215: a step of the second of two boards changes its trace and leaves the first. -/
theorem test_boards : ∃ c, boardsStep 1 (#v[board, { board with sel := .stat, pc := .gRd }] : Boards 2)
      = .next c ∧ (c.get 0).trace = [] ∧ (c.get 1).trace = [.rd8 0x001#12 0xA0#8] :=
  ⟨_, rfl, rfl, rfl⟩
theorem witness_Boards : ∃ c, boardsRun [1, 0, 1] (Boards.reset 2) = .next c := ⟨_, rfl⟩
/-- A grammar under which a text parses and one under which it does not; the reset attribute. -/
theorem witness_FrontEndGrammars : parseDecimal ['7'] = some 7 ∧ parseDecimal ['+', '7'] = none ∧
    (∃ r, Instr.setStat = setCommand r) := ⟨rfl, rfl, .stat, rfl⟩
theorem witness_StaleRegisters : board.pc = .idle ∧ run 1 board = .next board := ⟨rfl, rfl⟩

end Sys2Proof.Tests
end

section
/-!
SUPPORT. The front end (30_encoding.md R100, R110): what the default grammar says of a text, and the
request offered for a numeric operand.
-/
namespace Sys2Proof.Machine

/-! ## The default grammar -/

theorem digitValue_of_isDigit {c : Char} (h : c.isDigit = true) :
    digitValue c = some (c.toNat - '0'.toNat) := by
  obtain ⟨hlow, hhigh⟩ := Bool.and_eq_true_iff.1 h
  exact if_pos ⟨of_decide_eq_true hlow, of_decide_eq_true hhigh⟩

theorem digitValue_of_outside {c : Char} (h : c < '0' ∨ '9' < c) : digitValue c = none := by
  refine if_neg fun ⟨hlow, hhigh⟩ => ?_
  rcases h with h | h
  · exact absurd (Char.lt_def.1 h) (not_lt.2 hlow)
  · exact absurd (Char.lt_def.1 h) (not_lt.2 hhigh)

/-- On digits the grammar computes what the library's reading of digit characters does. -/
theorem decimalFrom_of_digits {cs : List Char} (h : ∀ c ∈ cs, c.isDigit = true) (acc : Nat) :
    decimalFrom acc cs = some (Nat.ofDigitChars 10 cs acc) := by
  induction cs generalizing acc with
  | nil => rfl
  | cons c cs ih =>
    obtain ⟨hc, hcs⟩ := List.forall_mem_cons.1 h
    rw [decimalFrom, digitValue_of_isDigit hc, Nat.ofDigitChars_cons]
    exact ih hcs _

theorem decimalFrom_of_outside {cs : List Char} (h : ∃ c ∈ cs, c < '0' ∨ '9' < c) (acc : Nat) :
    decimalFrom acc cs = none := by
  induction cs generalizing acc with
  | nil => simp at h
  | cons c cs ih =>
    rw [decimalFrom]
    cases hd : digitValue c with
    | none => rfl
    | some d =>
      have hc : ¬ (c < '0' ∨ '9' < c) := fun hc => by simp [digitValue_of_outside hc] at hd
      exact ih (by simpa [hc] using h) _

theorem parseDecimal_of_ne_nil {text : List Char} (h : text ≠ []) :
    parseDecimal text = decimalFrom 0 text := by
  cases text with
  | nil => exact absurd rfl h
  | cons c cs => rfl

theorem parseDecimal_toDigits (n : Nat) : parseDecimal (Nat.toDigits 10 n) = some n := by
  have digits : ∀ c ∈ Nat.toDigits 10 n, c.isDigit = true :=
    fun _ => Nat.isDigit_of_mem_toDigits (by decide) (by decide)
  rw [parseDecimal_of_ne_nil Nat.toDigits_ne_nil, decimalFrom_of_digits digits,
    Nat.ofDigitChars_ten_toDigits]

/-- A leading zero leaves the value of the digits read so far at 0. -/
theorem parseDecimal_leadingZero {text : List Char} (h : text ≠ []) :
    parseDecimal ('0' :: text) = parseDecimal text :=
  (show parseDecimal ('0' :: text) = decimalFrom 0 text from rfl).trans
    (parseDecimal_of_ne_nil h).symm

theorem parseDecimal_of_outside {text : List Char}
    (h : text = [] ∨ ∃ c ∈ text, c < '0' ∨ '9' < c) : parseDecimal text = none := by
  cases text with
  | nil => rfl
  | cons c cs => exact decimalFrom_of_outside (h.resolve_left (List.cons_ne_nil c cs)) 0

/-! ## The front end under any grammar -/

theorem frontEndOperand_of_none {grammar : DecimalGrammar} {text : List Char}
    (h : grammar text = none) : frontEndOperand grammar text = .notParsed := by
  simp [frontEndOperand, h]

theorem frontEndOperand_of_some {grammar : DecimalGrammar} {text : List Char} {n : Nat}
    (h : grammar text = some n) :
    frontEndOperand grammar text = .number (BitVec.ofNat 32 (min n 0xFFFFFFFF)) := by
  simp [frontEndOperand, h]

theorem frontEndOperand_congr {grammar grammar' : DecimalGrammar} {text text' : List Char}
    (h : grammar' text' = grammar text) :
    frontEndOperand grammar' text' = frontEndOperand grammar text := by
  simp [frontEndOperand, h]

/-! ## The commands that take a number (R93, R100) -/

/-- R93: a `SET_x` is read back from its word, whatever follows it. -/
theorem decode_encodeWord_setCommand (r : Reg) (v : Operand) (p : List Byte) :
    decode (encodeWord (setCommand r v)) p = .ok (setCommand r v) := by
  cases r <;> cases v <;> exact decode_cw48 ..

/-- R93: a `RESET` is read back from its word, whatever follows it. -/
theorem decode_encodeWord_reset (v : Operand) (p : List Byte) :
    decode (encodeWord (.reset v)) p = .ok (.reset v) := by
  cases v <;> exact decode_cw48 ..

/-- R92: the word of a command that is no transfer tells the length of the word alone. -/
theorem commandLength_encodeWord {i : Instr} (hA : i.opc ≠ 0x30#8) (hB : i.opc ≠ 0x31#8) :
    commandLength (encodeWord i) = 6 := by
  simp [commandLength, (encodeWord_fields i).1, hA, hB]

/-- A command with no payload that is no transfer is a request as the front end builds it. -/
theorem request_wellFormed {i : Instr} (hA : i.opc ≠ 0x30#8) (hB : i.opc ≠ 0x31#8)
    (hp : encodePayload i = []) : Request.wellFormed ⟨encodeWord i, encodePayload i⟩ = true := by
  simp [Request.wellFormed, commandLength_encodeWord hA hB, hp]

/-- The request of a command that takes a number is well formed and decodes to that command. -/
theorem numericRequest_decodes {command : Operand → Instr}
    (h : (∃ r, command = setCommand r) ∨ command = Instr.reset) (v : Operand) :
    Request.wellFormed ⟨encodeWord (command v), encodePayload (command v)⟩ = true ∧
      decode (encodeWord (command v)) (encodePayload (command v)) = .ok (command v) := by
  rcases h with ⟨r, rfl⟩ | rfl
  · refine ⟨?_, decode_encodeWord_setCommand r v _⟩
    cases r <;> exact request_wellFormed (by simp [setCommand, Instr.opc])
      (by simp [setCommand, Instr.opc]) rfl
  · exact ⟨request_wellFormed (by simp [Instr.opc]) (by simp [Instr.opc]) rfl,
      decode_encodeWord_reset v _⟩

end Sys2Proof.Machine

open Sys2Proof Sys2Proof.Machine

/-- Settles O6: on digits the default grammar is the library's reading of digit characters, and a request
depends on its grammar through the operand alone. -/
theorem frontEndParsesDecimals : Obligations.FrontEndParsesDecimals := by
  refine ⟨fun grammar text => ⟨frontEndOperand_of_none, fun n => frontEndOperand_of_some,
    fun command hcommand => ?_⟩, fun n => frontEndOperand_of_some (parseDecimal_toDigits n),
    fun text h => frontEndOperand_congr (parseDecimal_leadingZero h),
    fun text h => frontEndOperand_of_none (parseDecimal_of_outside h)⟩
  obtain ⟨hwf, hdecode⟩ := numericRequest_decodes hcommand (frontEndOperand grammar text)
  exact ⟨hwf, hdecode, fun grammar' h => by
    rw [frontEndRequest, frontEndRequest, frontEndOperand_congr h]⟩
end

section
/-!
SUPPORT. What a step can do to the trace, the window, the responses and the parameters (00_scope.md R7,
R13): at most one access of the bus port, then bookkeeping that touches none of these but to answer.
-/
namespace Sys2Proof.Machine

/-! ## One access, and what may stand around it -/

/-- No access, or one of those the engine issues, with its effect on the window and its event (20_memory.md
R61 to R64). -/
inductive BusAccess (s : State) : State → Prop where
  | none : BusAccess s s
  | rd8 (off : Offset) : BusAccess s (s.emit (.rd8 off (s.byteAt off)))
  | wr8 (off : Offset) (v : Byte) : BusAccess s ((s.store off v).emit (.wr8 off v))
  | wr32 (off : Offset) (v : Word32) : BusAccess s ((s.storeWord off v).emit (.wr32 off v))

/-- A change of the state that is no access: the trace, the window and the parameters stay, and responses
are at most added. -/
structure Bookkeeping (s t : State) : Prop where
  trace : t.trace = s.trace
  mem : t.mem = s.mem
  params : t.params = s.params
  responses : s.responses <+: t.responses

/-- A step of the engine: at most one access, then bookkeeping. -/
def OneAccess (s t : State) : Prop := ∃ u, BusAccess s u ∧ Bookkeeping u t

variable {s t u : State}

theorem BusAccess.trace (h : BusAccess s u) : u.trace = s.trace ∨ ∃ e, u.trace = s.trace ++ [e] := by
  cases h with
  | none => exact .inl rfl
  | rd8 => exact .inr ⟨_, rfl⟩
  | wr8 => exact .inr ⟨_, rfl⟩
  | wr32 => exact .inr ⟨_, rfl⟩

theorem BusAccess.responses (h : BusAccess s u) : u.responses = s.responses := by
  cases h <;> rfl

theorem BusAccess.params (h : BusAccess s u) : u.params = s.params := by
  cases h <;> rfl

/-- An update of other fields, seen by unfolding it. -/
theorem Bookkeeping.silent (ht : t.trace = s.trace := by rfl) (hm : t.mem = s.mem := by rfl)
    (hp : t.params = s.params := by rfl) (hr : t.responses = s.responses := by rfl) :
    Bookkeeping s t :=
  ⟨ht, hm, hp, hr ▸ List.prefix_rfl⟩

theorem Bookkeeping.trans (h : Bookkeeping s u) (h' : Bookkeeping u t) : Bookkeeping s t :=
  ⟨h'.trace.trans h.trace, h'.mem.trans h.mem, h'.params.trans h.params,
    h.responses.trans h'.responses⟩

theorem Bookkeeping.respond (h : Bookkeeping s t) (st : Status) (c : Cause) (data : List Byte) :
    Bookkeeping s (t.respond st c data) :=
  ⟨h.trace, h.mem, h.params, h.responses.trans (List.prefix_append ..)⟩

theorem Bookkeeping.nextIdx {atEnd : State → State} (h : Bookkeeping s t)
    (he : Bookkeeping t (atEnd t)) : Bookkeeping s (t.nextIdx atEnd) := by
  unfold State.nextIdx
  split
  · exact h.trans he
  · exact h.trans .silent

theorem nextIter_bookkeeping (s : State) : Bookkeeping s s.nextIter := by
  unfold State.nextIter
  split
  · exact .silent
  · exact .silent

theorem Bookkeeping.oneAccess (h : Bookkeeping s t) : OneAccess s t := ⟨s, .none, h⟩

/-! ## The shapes a phase is built from -/

theorem oneAccess_next (h : (.next u : Result) = .next t) (hu : Bookkeeping s u) : OneAccess s t := by
  cases h
  exact hu.oneAccess

theorem oneAccess_rd8 {off : Offset} {next : Byte × State → State}
    (h : andThen (rd8 off s) (fun r => .next (next r)) = .next t)
    (hn : ∀ v u, Bookkeeping u (next (v, u))) : OneAccess s t := by
  obtain ⟨⟨v, u⟩, hr, hu⟩ := andThen_eq_next.1 h
  obtain ⟨-, -, rfl⟩ := rd8_eq_next.1 hr
  cases hu
  exact ⟨_, .rd8 off, hn _ _⟩

theorem oneAccess_wr8 {off : Offset} {v : Byte} {f : State → Result}
    (h : andThen (wr8 off v s) f = .next t)
    (hf : ∀ u, f u = .next t → Bookkeeping u t) : OneAccess s t := by
  obtain ⟨u, hw, hu⟩ := andThen_eq_next.1 h
  obtain ⟨-, rfl⟩ := wr8_eq_next.1 hw
  exact ⟨_, .wr8 off v, hf _ hu⟩

theorem oneAccess_wr8_next {off : Offset} {v : Byte} {next : State → State}
    (h : andThen (wr8 off v s) (fun u => .next (next u)) = .next t)
    (hn : ∀ u, Bookkeeping u (next u)) : OneAccess s t :=
  oneAccess_wr8 h fun u hu => by
    cases hu
    exact hn u

theorem oneAccess_wr32_next {off : Offset} {v : Word32} {next : State → State}
    (h : andThen (wr32 off v s) (fun u => .next (next u)) = .next t)
    (hn : ∀ u, Bookkeeping u (next u)) : OneAccess s t := by
  obtain ⟨u, hw, hu⟩ := andThen_eq_next.1 h
  obtain ⟨-, -, rfl⟩ := wr32_eq_next.1 hw
  cases hu
  exact ⟨_, .wr32 off v, hn _⟩

theorem withIdx_oneAccess {f : Fin 1020 → Result} (h : withIdx s f = .next t)
    (hf : ∀ i, f i = .next t → OneAccess s t) : OneAccess s t := by
  unfold withIdx at h
  split at h
  · exact hf _ h
  · cases h

theorem readStat_oneAccess {next : State → State} (h : readStat s next = .next t)
    (hn : ∀ u, Bookkeeping u (next u)) : OneAccess s t :=
  oneAccess_rd8 h fun _ _ => .trans .silent (hn _)

theorem recordDiag_oneAccess {off : Offset} {k : Fin 6} {next : State → State}
    (h : recordDiag off k next s = .next t) (hn : ∀ u, Bookkeeping u (next u)) : OneAccess s t :=
  oneAccess_rd8 h fun _ _ => .trans .silent (hn _)

theorem readLoop_oneAccess {base : Offset} (h : readLoop base s = .next t) : OneAccess s t :=
  withIdx_oneAccess h fun _ h => oneAccess_rd8 h fun _ _ =>
    .nextIdx .silent (.respond .silent ..)

theorem zeroLoop_oneAccess {base : Offset} {atEnd : State → State}
    (h : zeroLoop base atEnd s = .next t) (he : ∀ u, Bookkeeping u (atEnd u)) : OneAccess s t :=
  withIdx_oneAccess h fun _ h => oneAccess_wr8_next h fun u => .nextIdx .silent (he u)

/-! ## The phases with a loop or a choice inside -/

theorem phaseXData_oneAccess (h : phaseXData s = .next t) : OneAccess s t :=
  withIdx_oneAccess h fun _ h => oneAccess_wr8_next h fun _ => .nextIdx .silent .silent

theorem phaseXSt1_oneAccess (h : phaseXSt1 s = .next t) : OneAccess s t :=
  readStat_oneAccess h fun u => by
    split
    · exact .silent
    · exact .respond .silent ..

theorem phaseRsSettle_oneAccess (h : phaseRsSettle s = .next t) : OneAccess s t := by
  unfold phaseRsSettle at h
  split_ifs at h
  · exact oneAccess_wr8_next h fun _ => .silent
  · exact oneAccess_wr32_next h fun _ => .silent
  · exact oneAccess_wr32_next h nextIter_bookkeeping

theorem finishReset_bookkeeping (h : finishReset s = .next t) : Bookkeeping s t := by
  unfold finishReset at h
  split at h <;> cases h
  · exact .respond .silent ..
  · exact .silent

theorem phaseIqPre_oneAccess (h : phaseIqPre s = .next t) : OneAccess s t := by
  unfold phaseIqPre at h
  split_ifs at h <;> exact recordDiag_oneAccess h fun _ => .silent

theorem finishIrq_bookkeeping (s : State) : Bookkeeping s s.finishIrq :=
  .respond .silent ..

theorem phaseIqPost_oneAccess (h : phaseIqPost s = .next t) : OneAccess s t := by
  unfold phaseIqPost at h
  split_ifs at h
  · exact recordDiag_oneAccess h fun _ => .silent
  · exact recordDiag_oneAccess h fun _ => .silent
  · exact recordDiag_oneAccess h finishIrq_bookkeeping

theorem raiseInvalid_bookkeeping (s : State) (c : Cause) : Bookkeeping s (s.raiseInvalid c) :=
  .respond .silent ..

theorem raiseResource_bookkeeping (s : State) (c : Cause) : Bookkeeping s (s.raiseResource c) :=
  .respond .silent ..

theorem phaseAtMap_oneAccess (h : phaseAtMap s = .next t) : OneAccess s t := by
  unfold phaseAtMap at h
  split at h
  · exact oneAccess_next h .silent
  · exact oneAccess_next h (raiseResource_bookkeeping s _)

theorem phaseAtIrq_oneAccess (h : phaseAtIrq s = .next t) : OneAccess s t := by
  unfold phaseAtIrq at h
  split at h
  · exact oneAccess_next h .silent
  · exact oneAccess_next h .silent

/-! ## One step of the engine -/

/-- R7: the step at each phase makes at most one access. -/
theorem phaseStep_oneAccess (h : phaseStep s = .next t) : OneAccess s t := by
  revert h
  unfold phaseStep
  cases s.pc with
  | idle | dtSurf | dtIrq => exact fun h => oneAccess_next h .silent
  | gRd => exact fun h => oneAccess_rd8 h fun _ _ => .respond .silent ..
  | sWr | xNudge => exact fun h => oneAccess_wr8_next h fun _ => .respond .silent ..
  | zp | rb => exact readLoop_oneAccess
  | xbPreRd | xSt2 | rsStRd | iqRd => exact fun h => readStat_oneAccess h fun _ => .silent
  | xbPreWr | xBell | rsRun | rsStWr | iqWr | atDipsw =>
    exact fun h => oneAccess_wr8_next h fun _ => .silent
  | xData => exact phaseXData_oneAccess
  | xSt1 => exact phaseXSt1_oneAccess
  | rsZa | rsZb => exact fun h => zeroLoop_oneAccess h fun _ => .silent
  | rsSettle => exact phaseRsSettle_oneAccess
  | rsStA0 => exact fun h => oneAccess_wr8 h fun _ => finishReset_bookkeeping
  | iqPre => exact phaseIqPre_oneAccess
  | iqPost => exact phaseIqPost_oneAccess
  | atMap => exact phaseAtMap_oneAccess
  | atIrq => exact phaseAtIrq_oneAccess
  | atUnwind => exact fun h => oneAccess_next h (.trans .silent (raiseResource_bookkeeping ..))
  | atSurf | dtMap => exact fun h => oneAccess_next h (.respond .silent ..)

/-! ## Acceptance makes no access -/

theorem bookkeeping_next (h : (.next u : Result) = .next t) (hu : Bookkeeping s u) :
    Bookkeeping s t := by
  cases h
  exact hu

theorem acceptSet_bookkeeping {r : Reg} {v : Operand} (h : acceptSet r v s = .next t) :
    Bookkeeping s t := by
  unfold acceptSet at h
  split at h
  · exact bookkeeping_next h (raiseInvalid_bookkeeping s _)
  · exact bookkeeping_next h .silent

theorem acceptXfer_bookkeeping {c : Channel} {first : Phase} {len : Word32} {data : List Byte}
    (h : acceptXfer c first len data s = .next t) : Bookkeeping s t := by
  unfold acceptXfer at h
  split at h
  · exact bookkeeping_next h (raiseInvalid_bookkeeping s _)
  · split at h
    · exact bookkeeping_next h .silent
    · cases h

theorem execGetZeropage_bookkeeping (h : execGetZeropage s = .next t) : Bookkeeping s t := by
  unfold execGetZeropage at h
  split at h
  · exact bookkeeping_next h .silent
  · exact bookkeeping_next h (raiseInvalid_bookkeeping s _)

theorem execReset_bookkeeping {n : Operand} (h : execReset n s = .next t) : Bookkeeping s t := by
  unfold execReset at h
  split at h
  · exact bookkeeping_next h (raiseInvalid_bookkeeping s _)
  · exact bookkeeping_next h .silent

theorem exec_bookkeeping {i : Instr} (h : exec i s = .next t) : Bookkeeping s t := by
  cases i with
  | getBootp | getStat | getDipsw | getFfe | getFff | rdA | rdB | irqSvc | attach | detach =>
    exact bookkeeping_next h .silent
  | setBootp | setStat | setDipsw | setFfe | setFff => exact acceptSet_bookkeeping h
  | xferA | xferB => exact acceptXfer_bookkeeping h
  | getBufsize => exact bookkeeping_next h (.respond .silent ..)
  | getZeropage => exact execGetZeropage_bookkeeping h
  | reset => exact execReset_bookkeeping h

theorem acceptRequest_bookkeeping {p : Port} {r : Request} (h : acceptRequest p r s = .next t) :
    Bookkeeping s t := by
  unfold acceptRequest at h
  split at h
  · exact bookkeeping_next h (raiseInvalid_bookkeeping s _)
  · split at h
    · exact exec_bookkeeping h
    · exact bookkeeping_next h (raiseInvalid_bookkeeping s _)

theorem removeOffered_bookkeeping (s : State) (o : Offered) : Bookkeeping s (removeOffered s o) := by
  cases o <;> exact .silent

theorem accept_bookkeeping {o : Offered} (h : accept s o = .next t) : Bookkeeping s t := by
  unfold accept at h
  split at h
  · have offPort : Bookkeeping s { removeOffered s o with owner := offeredPort o } :=
      (removeOffered_bookkeeping s o).trans .silent
    exact offPort.trans (acceptRequest_bookkeeping h)
  · exact bookkeeping_next h .silent

theorem arbitrate_bookkeeping {pick : Option Nat} (h : arbitrate pick s = .next t) :
    Bookkeeping s t := by
  rcases arbitrate_cases h with ⟨-, rfl⟩ | ⟨o, -, d, ha⟩
  · exact .silent
  · exact .trans .silent (accept_bookkeeping ha)

/-- R7: an engine step makes at most one access; the arbiter's makes none. -/
theorem engineStep_oneAccess {pick : Option Nat} (h : engineStep pick s = .next t) :
    OneAccess s t := by
  by_cases hpc : s.pc = .idle
  · exact (arbitrate_bookkeeping (engineStep_idle hpc ▸ h)).oneAccess
  · exact phaseStep_oneAccess (engineStep_busy hpc ▸ h)

/-! ## One step -/

/-- R7, R13: the trace grows by at most one event, the responses only grow, the parameters stay. -/
def GrowsByOneAccess (s t : State) : Prop :=
  (t.trace = s.trace ∨ ∃ e, t.trace = s.trace ++ [e]) ∧
    (∃ l, t.responses = s.responses ++ l) ∧ t.params = s.params

theorem OneAccess.grows (h : OneAccess s t) : GrowsByOneAccess s t := by
  obtain ⟨u, ha, hb⟩ := h
  obtain ⟨l, hl⟩ := hb.responses
  refine ⟨?_, ⟨l, ?_⟩, hb.params.trans ha.params⟩
  · rw [hb.trace]
    exact ha.trace
  · rw [← hl, ha.responses]

theorem targetStep_grows (w : List (Offset × Byte)) (q : Bool) (s : State) :
    GrowsByOneAccess s (targetStep w q s) :=
  ⟨.inl rfl, ⟨[], (List.append_nil _).symm⟩, rfl⟩

theorem offerOn_bookkeeping (p : Port) (r : Request) (s : State) :
    Bookkeeping s (offerOn p r s) := by
  have held : ∀ (c : Bool) {u : State}, Bookkeeping s u → Bookkeeping s (if c then u else s) := by
    intro c u hu
    cases c
    · exact .silent
    · exact hu
  cases p <;> exact held _ .silent

end Sys2Proof.Machine

open Sys2Proof Sys2Proof.Machine

/-- Settles O53: an engine step is at most one access with bookkeeping after it; a target step and an
offer make no access. -/
theorem atMostOneAccessPerStep : Obligations.AtMostOneAccessPerStep := by
  intro s t h
  rcases step_cases h with ⟨-, he⟩ | ⟨k, rest, -, he⟩ | ⟨w, q, rest, -, rfl⟩ | ⟨p, r, rest, -, rfl⟩
  · exact (engineStep_oneAccess he).grows
  · exact (engineStep_oneAccess he).grows
  · exact targetStep_grows w q { s with turns := rest }
  · exact (offerOn_bookkeeping p r { s with turns := rest }).oneAccess.grows
end

section
/-!
SUPPORT. The runs of several boards (60_exceptions.md R215): an interleaved run against each board's own.
-/
namespace Sys2Proof.Machine

variable {n : Nat}

/-- Every board has made its own run, of as many steps as the order gives it. -/
theorem run_of_boardsRun {order : List (Fin n)} {b c : Boards n} (h : boardsRun order b = .next c)
    (k : Fin n) : run (order.count k) (b.get k) = .next (c.get k) := by
  induction order generalizing b with
  | nil =>
    cases h
    rfl
  | cons j order ih =>
    rw [boardsRun_cons] at h
    obtain ⟨b', hj, horder⟩ := andThen_eq_next.1 h
    obtain ⟨hstep, hstay⟩ := boardsStep_cases hj
    by_cases hjk : j = k
    · subst hjk
      rw [List.count_cons_self, run_of_step hstep]
      exact ih horder
    · rw [List.count_cons_of_ne hjk, ← hstay k (Ne.symm hjk)]
      exact ih horder

/-- Own runs that go through can be interleaved in any order. -/
theorem boardsRun_of_runs {order : List (Fin n)} {b : Boards n}
    (h : ∀ k, ∃ t, run (order.count k) (b.get k) = .next t) : ∃ c, boardsRun order b = .next c := by
  induction order generalizing b with
  | nil => exact ⟨b, rfl⟩
  | cons j order ih =>
    obtain ⟨u, hu⟩ := h j
    rw [List.count_cons_self, run_succ] at hu
    obtain ⟨t, hstep, ht⟩ := andThen_eq_next.1 hu
    rw [boardsRun_cons, boardsStep_of_step hstep, andThen_next]
    refine ih fun k => ?_
    by_cases hkj : k = j
    · subst hkj
      rw [Boards.get_set_same]
      exact ⟨u, ht⟩
    · rw [Boards.get_set_ne b t hkj, ← List.count_cons_of_ne (Ne.symm hkj)]
      exact h k

theorem Boards.set_single (s t : State) : (Boards.single s).set 0 t = Boards.single t := by
  ext i hi
  simp [Boards.single, Nat.lt_one_iff.1 hi]

theorem boardsStep_single (s : State) :
    boardsStep 0 (Boards.single s) = andThen (step s) fun t => .next (Boards.single t) := by
  simp [boardsStep, Boards.set_single]

/-- The default of one board: its interleaved run is its own. -/
theorem boardsRun_single (s : State) (m : Nat) :
    boardsRun (List.replicate m 0) (Boards.single s) =
      andThen (run m s) fun t => .next (Boards.single t) := by
  induction m generalizing s with
  | zero => rfl
  | succ m ih =>
    rw [List.replicate_succ, boardsRun_cons, boardsStep_single, run_succ, andThen_assoc,
      andThen_assoc]
    exact congrArg (andThen (step s)) (funext ih)

end Sys2Proof.Machine

open Sys2Proof Sys2Proof.Machine

/-- Settles O60, by induction on the order. -/
theorem boardsAreIndependent : Obligations.BoardsAreIndependent :=
  ⟨fun _ _ _ _ => run_of_boardsRun, fun _ _ _ => boardsRun_of_runs, boardsRun_single⟩
end

section
/-!
SUPPORT. What a step of a busy engine can do (10_state.md R42, R43): at most one access, never a write to
a hole (R30), and then the advance of its phase. What every such step keeps is read off this list.
-/
namespace Sys2Proof.Machine

/-! ## The advance of each phase -/

/-- The phases that end without a counter or a flag, and the phase each goes on to (R42). -/
inductive Follows : Phase → Phase → Prop where
  | xbPreRd : Follows .xbPreRd .xbPreWr
  | xbPreWr : Follows .xbPreWr .xData
  | xBell : Follows .xBell .xSt1
  | xSt1 : Follows .xSt1 .xSt2
  | xSt2 : Follows .xSt2 .xNudge
  | rsRun : Follows .rsRun .rsStRd
  | rsStRd : Follows .rsStRd .rsStWr
  | rsStWr : Follows .rsStWr .rsStA0
  | iqRd : Follows .iqRd .iqWr
  | atIrq : Follows .atIrq .atUnwind

/-- The phases that count `idx` over a buffer or the zero page (R37, R40). -/
def Phase.countsIdx (p : Phase) : Prop := p = .zp ∨ p = .rb ∨ p = .xData ∨ p = .rsZa ∨ p = .rsZb

/-- What a busy engine changes beside its access, from the state just after that access (R42). -/
inductive Advance (s : State) : State → Prop where
  | follow {p p' : Phase} (hpc : s.pc = p) (h : Follows p p') (v : Byte) :
    Advance s { s with tmp := v, pc := p' }
  | answer (hpc : s.pc = .gRd ∨ s.pc = .sWr ∨ s.pc = .xSt1 ∨ s.pc = .xNudge) (v : Byte)
      (data : List Byte) : Advance s ({ s with tmp := v }.respond .ok .none data)
  | count (hpc : s.pc.countsIdx) (hidx : s.idx.toNat < 1019) (stage : Vector Byte 1020) :
    Advance s { s with stage := stage, idx := s.idx + 1 }
  | readEnd (hpc : s.pc = .zp ∨ s.pc = .rb) (stage : Vector Byte 1020) :
    Advance s ({ s with stage := stage }.respond .ok .none stage.toList)
  | dataEnd (hpc : s.pc = .xData) (hidx : s.idx.toNat = 1019) : Advance s (s.goto .xBell)
  | zeroAEnd (hpc : s.pc = .rsZa) (hidx : s.idx.toNat = 1019) :
    Advance s { s with idx := 0#10, pc := .rsZb }
  | zeroBEnd (hpc : s.pc = .rsZb) (hidx : s.idx.toNat = 1019) :
    Advance s { s with iter := 0#15, sub := 0#2, pc := .rsSettle }
  | settle (hpc : s.pc = .rsSettle) (hiter : s.iter.toNat < 30000) (k : BitVec 2)
      (hk : k.toNat = s.sub.toNat + 1) (hk3 : k.toNat < 3) : Advance s { s with sub := k }
  | settleCount (hpc : s.pc = .rsSettle) (hiter : s.iter.toNat < 29999) (hsub : s.sub.toNat = 2) :
    Advance s { s with iter := s.iter + 1, sub := 0#2 }
  | settleEnd (hpc : s.pc = .rsSettle) (hiter : s.iter.toNat = 29999) (hsub : s.sub.toNat = 2) :
    Advance s (s.goto .rsRun)
  | resetAnswer (hpc : s.pc = .rsStA0) (howner : s.owner = .cmd) :
    Advance s (s.respond .ok .none [])
  | resetInAttach (hpc : s.pc = .rsStA0) (howner : s.owner = .life) : Advance s (s.goto .atSurf)
  | record (hpc : s.pc = .iqPre ∨ s.pc = .iqPost) (diag : Vector Byte 6) (k : BitVec 2)
      (hk : k.toNat = s.sub.toNat + 1) (hk3 : k.toNat < 3) :
    Advance s { s with diag := diag, sub := k }
  | recordEnd (hpc : s.pc = .iqPre) (hsub : s.sub.toNat = 2) (diag : Vector Byte 6) :
    Advance s { s with diag := diag, sub := 0#2, pc := .iqRd }
  | ack (hpc : s.pc = .iqWr) : Advance s { s with sub := 0#2, pc := .iqPost }
  | irqEnd (hpc : s.pc = .iqPost) (hsub : s.sub.toNat = 2) (diag : Vector Byte 6) :
    Advance s { s with diag := diag }.finishIrq
  | map (hpc : s.pc = .atMap) : Advance s { s with mapped := true, pc := .atIrq }
  | mapFail (hpc : s.pc = .atMap) : Advance s (s.raiseResource .mapFail)
  | bindIrq (hpc : s.pc = .atIrq) : Advance s { s with irqBound := true, pc := .atDipsw }
  | unwind (hpc : s.pc = .atUnwind) :
    Advance s ({ s with mapped := false }.raiseResource .irqFail)
  | enterReset (hpc : s.pc = .atDipsw) : Advance s s.enterReset
  | openSurface (hpc : s.pc = .atSurf) :
    Advance s ({ s with surface := true }.respond .ok .none [])
  | closeSurface (hpc : s.pc = .dtSurf) :
    Advance s { s with surface := false, cmdReqs := [], pc := .dtIrq }
  | unbindIrq (hpc : s.pc = .dtIrq) :
    Advance s { s with irqBound := false, irqReq := none, pc := .dtMap }
  | unmap (hpc : s.pc = .dtMap) : Advance s ({ s with mapped := false }.respond .ok .none [])

/-- The bytes of the three holes of the window are as before (R30). -/
def HolesKept (s t : State) : Prop := ∀ a, isHole a → t.byteAt a = s.byteAt a

/-- A step of a busy engine. -/
def BusyStep (s t : State) : Prop := ∃ u, BusAccess s u ∧ HolesKept s u ∧ Advance u t

variable {s t u : State}

/-! ## No access names a hole (R29) -/


theorem not_isHole_reg (r : Reg) : ¬ isHole r.offset := by
  cases r <;> simp [isHole, Reg.offset, Config.offBootp, Config.offStat, Config.offDipsw,
    Config.offFfe, Config.offFff]

/-- A buffer byte lies in no hole while the index is in its range. -/
theorem not_isHole_idxOffset (c : Channel) (h : s.idx.toNat < 1020) :
    ¬ isHole (s.idxOffset c.base) := by
  cases c <;>
    simp [isHole, State.idxOffset, Channel.base, Config.offBufA, Config.offBufB,
      BitVec.toNat_add] <;> omega

theorem holesKept_store {off : Offset} (v : Byte) (h : ¬ isHole off) (e : BusEvent) :
    HolesKept s ((s.store off v).emit e) := fun _ ha =>
  State.byteAt_store_ne s v fun hao => h (hao ▸ ha)

/-- The first word of a buffer lies in no hole. -/
theorem holesKept_storeWord (c : Channel) (v : Word32) (e : BusEvent) :
    HolesKept s ((s.storeWord c.base v).emit e) := by
  intro a ha
  have outside : ∀ k : Offset, k.toNat < 4 → a ≠ c.base + k := by
    rintro k hk rfl
    cases c <;>
      simp [isHole, Channel.base, Config.offBufA, Config.offBufB, BitVec.toNat_add] at ha <;> omega
  show (s.storeWord c.base v).byteAt a = s.byteAt a
  unfold State.storeWord
  rw [State.byteAt_store_ne _ _ (outside 3 (by decide)),
    State.byteAt_store_ne _ _ (outside 2 (by decide)),
    State.byteAt_store_ne _ _ (outside 1 (by decide)),
    State.byteAt_store_ne _ _ (by simpa using outside 0 (by decide))]

/-! ## The shapes a phase is built from -/

theorem busyStep_silent (h : (.next u : Result) = .next t) (hu : Advance s u) : BusyStep s t := by
  cases h
  exact ⟨s, .none, fun _ _ => rfl, hu⟩

theorem busyStep_rd8 {off : Offset} {next : Byte × State → State}
    (h : andThen (rd8 off s) (fun r => .next (next r)) = .next t)
    (hn : ∀ v e, Advance (s.emit e) (next (v, s.emit e))) : BusyStep s t := by
  obtain ⟨⟨v, u⟩, hr, hu⟩ := andThen_eq_next.1 h
  obtain ⟨-, -, rfl⟩ := rd8_eq_next.1 hr
  cases hu
  exact ⟨_, .rd8 off, fun _ _ => rfl, hn _ _⟩

theorem busyStep_wr8 {off : Offset} {v : Byte} {f : State → Result}
    (h : andThen (wr8 off v s) f = .next t) (hoff : ¬ isHole off)
    (hf : f ((s.store off v).emit (.wr8 off v)) = .next t →
      Advance ((s.store off v).emit (.wr8 off v)) t) : BusyStep s t := by
  obtain ⟨u, hw, hu⟩ := andThen_eq_next.1 h
  obtain ⟨-, rfl⟩ := wr8_eq_next.1 hw
  exact ⟨_, .wr8 off v, holesKept_store v hoff _, hf hu⟩

theorem busyStep_wr8_next {off : Offset} {v : Byte} {next : State → State}
    (h : andThen (wr8 off v s) (fun u => .next (next u)) = .next t) (hoff : ¬ isHole off)
    (hn : Advance ((s.store off v).emit (.wr8 off v))
      (next ((s.store off v).emit (.wr8 off v)))) : BusyStep s t :=
  busyStep_wr8 h hoff fun hu => by
    cases hu
    exact hn

theorem busyStep_wr32_next {c : Channel} {v : Word32} {next : State → State}
    (h : andThen (wr32 c.base v s) (fun u => .next (next u)) = .next t)
    (hn : Advance ((s.storeWord c.base v).emit (.wr32 c.base v))
      (next ((s.storeWord c.base v).emit (.wr32 c.base v)))) : BusyStep s t := by
  obtain ⟨u, hw, hu⟩ := andThen_eq_next.1 h
  obtain ⟨-, -, rfl⟩ := wr32_eq_next.1 hw
  cases hu
  exact ⟨_, .wr32 _ v, holesKept_storeWord c v _, hn⟩

theorem readStat_busyStep {next : State → State} (h : readStat s next = .next t)
    (hn : ∀ v e, Advance (s.emit e) (next { s.emit e with tmp := v })) : BusyStep s t :=
  busyStep_rd8 h hn

/-- A read of `stat`, before the one phase that can follow. -/
theorem readStat_goto_busyStep {p p' : Phase} (hpc : s.pc = p) (hp : Follows p p')
    (h : readStat s (fun u => u.goto p') = .next t) : BusyStep s t :=
  readStat_busyStep h fun v e => .follow (s := s.emit e) hpc hp v

/-- A write, before the one phase that can follow. -/
theorem busyStep_wr8_goto {p p' : Phase} {off : Offset} {v : Byte} (hpc : s.pc = p)
    (hp : Follows p p') (h : andThen (wr8 off v s) (fun u => .next (u.goto p')) = .next t)
    (hoff : ¬ isHole off) : BusyStep s t :=
  busyStep_wr8_next h hoff (.follow (s := (s.store off v).emit (.wr8 off v)) hpc hp s.tmp)

theorem busyStep_wr8_answer {off : Offset} {v : Byte}
    (hpc : s.pc = .gRd ∨ s.pc = .sWr ∨ s.pc = .xSt1 ∨ s.pc = .xNudge)
    (h : andThen (wr8 off v s) (fun u => .next (u.respond .ok .none [])) = .next t)
    (hoff : ¬ isHole off) : BusyStep s t :=
  busyStep_wr8_next h hoff (.answer (s := (s.store off v).emit (.wr8 off v)) hpc s.tmp [])

/-- Either the index counts up, or it was at 1019 and the loop is over (R40). -/
theorem advance_nextIdx {atEnd : State → State} {stage : Vector Byte 1020}
    (hpc : u.pc.countsIdx) (hidx : u.idx.toNat < 1020)
    (hend : u.idx.toNat = 1019 → Advance u (atEnd { u with stage := stage })) :
    Advance u ({ u with stage := stage }.nextIdx atEnd) := by
  unfold State.nextIdx
  split
  · next h => exact hend (by simpa using congrArg BitVec.toNat h)
  · next h =>
    have hne : u.idx.toNat ≠ 1019 := fun e => h (BitVec.eq_of_toNat_eq (by simpa using e))
    exact .count hpc (by omega) stage

theorem withIdx_busyStep {f : Fin 1020 → Result} (h : withIdx s f = .next t)
    (hf : ∀ i, s.idx.toNat < 1020 → f i = .next t → BusyStep s t) : BusyStep s t := by
  unfold withIdx at h
  split at h
  · exact hf _ ‹_› h
  · cases h

theorem readLoop_busyStep {base : Offset} (hpc : s.pc = .zp ∨ s.pc = .rb)
    (h : readLoop base s = .next t) : BusyStep s t :=
  withIdx_busyStep h fun i hi h => busyStep_rd8 h fun v e =>
    advance_nextIdx (u := s.emit e) (hpc.elim .inl (.inr ∘ .inl)) hi fun _ =>
      .readEnd (s := s.emit e) hpc (s.stage.set i.val v i.isLt)

/-- A write of a buffer byte, and then the count of its loop. -/
theorem busyStep_wr8_nextIdx {c : Channel} {v : Byte} {atEnd : State → State}
    (hpc : s.pc.countsIdx) (hi : s.idx.toNat < 1020)
    (h : andThen (wr8 (s.idxOffset c.base) v s) (fun u => .next (u.nextIdx atEnd)) = .next t)
    (hend : ∀ u : State, u.pc = s.pc → u.idx.toNat = 1019 → Advance u (atEnd u)) : BusyStep s t :=
  busyStep_wr8_next h (not_isHole_idxOffset c hi)
    (advance_nextIdx (u := (s.store _ v).emit (.wr8 _ v)) (stage := s.stage) hpc hi (hend _ rfl))

theorem zeroLoop_busyStep {c : Channel} {atEnd : State → State} (hpc : s.pc.countsIdx)
    (h : zeroLoop c.base atEnd s = .next t)
    (hend : ∀ u : State, u.pc = s.pc → u.idx.toNat = 1019 → Advance u (atEnd u)) : BusyStep s t :=
  withIdx_busyStep h fun _ hi h => busyStep_wr8_nextIdx hpc hi h hend

/-! ## The phases with a loop or a choice inside -/

theorem phaseXData_busyStep (hpc : s.pc = .xData) (h : phaseXData s = .next t) : BusyStep s t :=
  withIdx_busyStep h fun _ hi h =>
    busyStep_wr8_nextIdx (.inr (.inr (.inl hpc))) hi h fun _ hu => .dataEnd (hu.trans hpc)

theorem phaseRsZa_busyStep (hpc : s.pc = .rsZa) (h : phaseRsZa s = .next t) : BusyStep s t :=
  zeroLoop_busyStep (c := .a) (.inr (.inr (.inr (.inl hpc)))) h fun _ hu => .zeroAEnd (hu.trans hpc)

theorem phaseRsZb_busyStep (hpc : s.pc = .rsZb) (h : phaseRsZb s = .next t) : BusyStep s t :=
  zeroLoop_busyStep (c := .b) (.inr (.inr (.inr (.inr hpc)))) h fun _ hu => .zeroBEnd (hu.trans hpc)

theorem phaseXSt1_busyStep (hpc : s.pc = .xSt1) (h : phaseXSt1 s = .next t) : BusyStep s t :=
  readStat_busyStep h fun v e => by
    split
    · exact .follow (s := s.emit e) hpc .xSt1 v
    · exact .answer (s := s.emit e) (.inr (.inr (.inl hpc))) v []

/-- The end of a settling iteration: the next one, or the release. -/
theorem advance_nextIter (hpc : u.pc = .rsSettle) (hiter : u.iter.toNat < 30000)
    (hsub : u.sub = 2#2) : Advance u u.nextIter := by
  unfold State.nextIter
  split
  · exact .settleEnd hpc (by simp [*]) (by simp [hsub])
  · next h =>
    have hne : u.iter.toNat ≠ 29999 := fun e => h (BitVec.eq_of_toNat_eq (by simpa using e))
    exact .settleCount hpc (by omega) (by simp [hsub])

theorem phaseRsSettle_busyStep (hpc : s.pc = .rsSettle) (h : phaseRsSettle s = .next t) :
    BusyStep s t := by
  unfold phaseRsSettle at h
  split_ifs at h with hiter h0 h1 h2
  · exact busyStep_wr8_next h (not_isHole_reg .bootp)
      (.settle (s := (s.store _ _).emit _) hpc hiter 1#2 (by simp [h0]) (by decide))
  · exact busyStep_wr32_next (c := .b) h
      (.settle (s := (s.storeWord _ _).emit _) hpc hiter 2#2 (by
        show _ = s.sub.toNat + 1
        simp [h1]) (by decide))
  · exact busyStep_wr32_next (c := .a) h (advance_nextIter hpc hiter h2)

theorem advance_finishReset (hpc : u.pc = .rsStA0) (h : finishReset u = .next t) : Advance u t := by
  unfold finishReset at h
  split at h <;> cases h
  · exact .resetAnswer hpc ‹_›
  · exact .resetInAttach hpc ‹_›

theorem recordDiag_busyStep {off : Offset} {k : Fin 6} {next : State → State}
    (h : recordDiag off k next s = .next t)
    (hn : ∀ e d, Advance (s.emit e) (next { s.emit e with diag := d })) : BusyStep s t :=
  busyStep_rd8 h fun v e => hn e (s.diag.set k.val v k.isLt)

theorem phaseIqPre_busyStep (hpc : s.pc = .iqPre) (h : phaseIqPre s = .next t) : BusyStep s t := by
  unfold phaseIqPre at h
  split_ifs at h with h0 h1 h2
  · exact recordDiag_busyStep h fun e d =>
      .record (s := s.emit e) (.inl hpc) d 1#2 (by simp [h0]) (by decide)
  · exact recordDiag_busyStep h fun e d =>
      .record (s := s.emit e) (.inl hpc) d 2#2 (by simp [h1]) (by decide)
  · exact recordDiag_busyStep h fun e d => .recordEnd (s := s.emit e) hpc (by simp [h2]) d

theorem phaseIqPost_busyStep (hpc : s.pc = .iqPost) (h : phaseIqPost s = .next t) :
    BusyStep s t := by
  unfold phaseIqPost at h
  split_ifs at h with h0 h1 h2
  · exact recordDiag_busyStep h fun e d =>
      .record (s := s.emit e) (.inr hpc) d 1#2 (by simp [h0]) (by decide)
  · exact recordDiag_busyStep h fun e d =>
      .record (s := s.emit e) (.inr hpc) d 2#2 (by simp [h1]) (by decide)
  · exact recordDiag_busyStep h fun e d => .irqEnd (s := s.emit e) hpc (by simp [h2]) d

theorem phaseAtMap_busyStep (hpc : s.pc = .atMap) (h : phaseAtMap s = .next t) : BusyStep s t := by
  unfold phaseAtMap at h
  split at h
  · exact busyStep_silent h (.map hpc)
  · exact busyStep_silent h (.mapFail hpc)

theorem phaseAtIrq_busyStep (hpc : s.pc = .atIrq) (h : phaseAtIrq s = .next t) : BusyStep s t := by
  unfold phaseAtIrq at h
  split at h
  · exact busyStep_silent h (.bindIrq hpc)
  · exact busyStep_silent h (.follow hpc .atIrq s.tmp)

/-- R42: everything the step of a busy engine can do. -/
theorem phaseStep_busyStep (hpc : s.pc ≠ .idle) (h : phaseStep s = .next t) : BusyStep s t := by
  revert h
  unfold phaseStep
  cases hp : s.pc with
  | idle => exact absurd hp hpc
  | gRd => exact fun h => busyStep_rd8 h fun v e => .answer (s := s.emit e) (.inl hp) s.tmp [v]
  | sWr => exact fun h => busyStep_wr8_answer (.inr (.inl hp)) h (not_isHole_reg s.sel)
  | zp => exact readLoop_busyStep (.inl hp)
  | rb => exact readLoop_busyStep (.inr hp)
  | xbPreRd => exact readStat_goto_busyStep hp .xbPreRd
  | xbPreWr => exact fun h => busyStep_wr8_goto hp .xbPreWr h (not_isHole_reg .stat)
  | xData => exact phaseXData_busyStep hp
  | xBell => exact fun h => busyStep_wr8_goto hp .xBell h (not_isHole_reg .fff)
  | xSt1 => exact phaseXSt1_busyStep hp
  | xSt2 => exact readStat_goto_busyStep hp .xSt2
  | xNudge => exact fun h => busyStep_wr8_answer (.inr (.inr (.inr hp))) h (not_isHole_reg .stat)
  | rsZa => exact phaseRsZa_busyStep hp
  | rsZb => exact phaseRsZb_busyStep hp
  | rsSettle => exact phaseRsSettle_busyStep hp
  | rsRun => exact fun h => busyStep_wr8_goto hp .rsRun h (not_isHole_reg .bootp)
  | rsStRd => exact readStat_goto_busyStep hp .rsStRd
  | rsStWr => exact fun h => busyStep_wr8_goto hp .rsStWr h (not_isHole_reg .stat)
  | rsStA0 => exact fun h => busyStep_wr8 h (not_isHole_reg .stat) (advance_finishReset hp)
  | iqPre => exact phaseIqPre_busyStep hp
  | iqRd => exact readStat_goto_busyStep hp .iqRd
  | iqWr => exact fun h => busyStep_wr8_next h (not_isHole_reg .stat) (.ack hp)
  | iqPost => exact phaseIqPost_busyStep hp
  | atMap => exact phaseAtMap_busyStep hp
  | atIrq => exact phaseAtIrq_busyStep hp
  | atUnwind => exact fun h => busyStep_silent h (.unwind hp)
  | atDipsw => exact fun h => busyStep_wr8_next h (not_isHole_reg .dipsw) (.enterReset hp)
  | atSurf => exact fun h => busyStep_silent h (.openSurface hp)
  | dtSurf => exact fun h => busyStep_silent h (.closeSurface hp)
  | dtIrq => exact fun h => busyStep_silent h (.unbindIrq hp)
  | dtMap => exact fun h => busyStep_silent h (.unmap hp)

end Sys2Proof.Machine
end

section
/-!
SUPPORT. What the step of an idle engine can do (60_exceptions.md R207 to R209): stay, or take one request
off its port and accept it, which touches working registers only (30_encoding.md R104).
-/
namespace Sys2Proof.Machine

/-! ## The ways a request is accepted -/

/-- What acceptance of a command needs of its gate and its port (R95, R207). -/
def gateFor (i : Instr) (s : State) : Prop :=
  match i with
  | .irqSvc => s.irqBound = true
  | .attach _ _ => s.mapped = false
  | .detach => s.surface = true
  | _ => s.owner = .cmd ∧ s.surface = true

/-- The first phases that begin with `idx` at 0: the loops, and the pre-clear before one (R42, R144). -/
def Phase.beginsLoop (p : Phase) : Prop :=
  p = .zp ∨ p = .rb ∨ p = .xData ∨ p = .xbPreRd ∨ p = .rsZa

/-- Everything acceptance can do with a request at an open gate, after it is off its port (R208). -/
inductive Accepted (s : State) : State → Prop where
  | answered (st : Status) (c : Cause) (data : List Byte) : Accepted s (s.respond st c data)
  | register (hg : s.owner = .cmd ∧ s.surface = true) {p : Phase} (hp : p = .gRd ∨ p = .sWr)
      (sel : Reg) (tmp : Byte) : Accepted s { s with sel := sel, tmp := tmp, pc := p }
  | loop (hg : s.owner = .cmd ∧ s.surface = true) {p : Phase} (hp : p.beginsLoop) (ch : Channel)
      (stage : Vector Byte 1020) :
    Accepted s { s with ch := ch, stage := stage, idx := 0#10, pc := p }
  | irqSvc (hg : s.irqBound = true) :
    Accepted s { s with owner := .irq, sub := 0#2, pc := .iqPre }
  | attach (hg : s.mapped = false) (m q : Bool) :
    Accepted s { s with owner := .life, mapOk := m, irqOk := q, pc := .atMap }
  | detach (hg : s.surface = true) : Accepted s { s with owner := .life, pc := .dtSurf }

/-- A request is off its port, and `owner` is that port (R208); `d` draws are counted. -/
def takeOff (s : State) (o : Offered) (d : Nat) : State :=
  { removeOffered { s with draws := d } o with owner := offeredPort o }

/-- A step of an idle engine. -/
def IdleStep (s t : State) : Prop :=
  t = s ∨ ∃ o d, Accepted (takeOff s o d) t

variable {s t u : State}

/-! ## Acceptance -/

theorem accepted_next (h : (.next u : Result) = .next t) (hu : Accepted s u) : Accepted s t := by
  cases h
  exact hu

theorem acceptSet_accepted {r : Reg} {v : Operand} (hg : s.owner = .cmd ∧ s.surface = true)
    (h : acceptSet r v s = .next t) : Accepted s t := by
  unfold acceptSet at h
  split at h
  · exact accepted_next h (.answered ..)
  · exact accepted_next h (.register hg (.inr rfl) ..)

theorem acceptXfer_accepted {c : Channel} {first : Phase} {len : Word32} {data : List Byte}
    (hg : s.owner = .cmd ∧ s.surface = true) (hp : first.beginsLoop)
    (h : acceptXfer c first len data s = .next t) : Accepted s t := by
  unfold acceptXfer at h
  split at h
  · exact accepted_next h (.answered ..)
  · split at h
    · exact accepted_next h (.loop hg hp ..)
    · cases h

theorem execGetZeropage_accepted (hg : s.owner = .cmd ∧ s.surface = true)
    (h : execGetZeropage s = .next t) : Accepted s t := by
  unfold execGetZeropage at h
  split at h
  · exact accepted_next h (.loop hg (.inl rfl) s.ch s.stage)
  · exact accepted_next h (.answered ..)

theorem execReset_accepted {n : Operand} (hg : s.owner = .cmd ∧ s.surface = true)
    (h : execReset n s = .next t) : Accepted s t := by
  unfold execReset at h
  split at h
  · exact accepted_next h (.answered ..)
  · exact accepted_next h (.loop hg (.inr (.inr (.inr (.inr rfl)))) s.ch s.stage)

theorem exec_accepted {i : Instr} (hg : gateFor i s) (h : exec i s = .next t) : Accepted s t := by
  cases i with
  | getBootp | getStat | getDipsw | getFfe | getFff =>
    exact accepted_next h (.register hg (.inl rfl) _ s.tmp)
  | setBootp | setStat | setDipsw | setFfe | setFff => exact acceptSet_accepted hg h
  | rdA | rdB => exact accepted_next h (.loop hg (.inr (.inl rfl)) _ s.stage)
  | xferA => exact acceptXfer_accepted hg (.inr (.inr (.inl rfl))) h
  | xferB => exact acceptXfer_accepted hg (.inr (.inr (.inr (.inl rfl)))) h
  | getBufsize => exact accepted_next h (.answered ..)
  | getZeropage => exact execGetZeropage_accepted hg h
  | reset => exact execReset_accepted hg h
  | irqSvc => exact accepted_next h (.irqSvc hg)
  | attach m q => exact accepted_next h (.attach hg m q)
  | detach => exact accepted_next h (.detach hg)

/-- The gate a request stood at is the gate of the command it decodes to (R207). -/
theorem gate_of_gateOpen {r : Request} {i : Instr} (hd : decode r.word r.payload = .ok i)
    (hg : gateOpen s i.port r = true) (ho : s.owner = i.port) : gateFor i s := by
  cases i with
  | irqSvc => exact hg
  | attach => simpa [gateOpen, lifeGate, hd, Instr.port, gateFor] using hg
  | detach => simpa [gateOpen, lifeGate, hd, Instr.port, gateFor] using hg
  | _ => exact ⟨ho, hg⟩

theorem acceptRequest_accepted {p : Port} {r : Request} (hg : gateOpen s p r = true)
    (ho : s.owner = p) (h : acceptRequest p r s = .next t) : Accepted s t := by
  unfold acceptRequest at h
  split at h
  · exact accepted_next h (.answered ..)
  · next i hd =>
    split at h
    · next hp => exact exec_accepted (gate_of_gateOpen hd (hp ▸ hg) (ho.trans hp.symm)) h
    · exact accepted_next h (.answered ..)

/-- Taking a request off its port leaves the flags, and so every gate. -/
theorem gateOpen_takeOff (o : Offered) (d : Nat) (p : Port) (r : Request) :
    gateOpen (takeOff s o d) p r = gateOpen s p r := by
  cases o <;> rfl

/-- R208, R209: everything the step of an idle engine can do. -/
theorem arbitrate_idleStep {pick : Option Nat} (h : arbitrate pick s = .next t) : IdleStep s t := by
  rcases arbitrate_cases h with ⟨-, rfl⟩ | ⟨o, ho, d, ha⟩
  · exact .inl rfl
  · obtain ⟨r, hr, hg⟩ := mem_candidates.1 ho
    have hr' : offeredRequest { s with draws := d } o = some r := by cases o <;> exact hr
    rw [accept, hr'] at ha
    exact .inr ⟨o, d, acceptRequest_accepted ((gateOpen_takeOff o d ..).trans hg) rfl ha⟩

/-- Everything an engine step can do (R42). -/
theorem engineStep_cases {pick : Option Nat} (h : engineStep pick s = .next t) :
    (s.pc = .idle ∧ IdleStep s t) ∨ (s.pc ≠ .idle ∧ BusyStep s t) := by
  by_cases hpc : s.pc = .idle
  · exact .inl ⟨hpc, arbitrate_idleStep (engineStep_idle hpc ▸ h)⟩
  · exact .inr ⟨hpc, phaseStep_busyStep hpc (engineStep_busy hpc ▸ h)⟩

end Sys2Proof.Machine
end

section
/-!
SUPPORT. The invariant (10_state.md R40, R44, 60_exceptions.md R207): its control part along the advances
of a busy engine and through acceptance, and the ports, which only lose requests but by an offer.
-/
namespace Sys2Proof.Machine

/-! ## The control registers -/

/-- The part of the invariant that speaks of the control registers: flags, `owner` and counters fit the
phase (R40, R44, R208). -/
structure Control (s : State) : Prop where
  flags : flagsFit s
  owner : ownerFits s
  counters : countersFit s

variable {s t u : State}

theorem Inv.control (hs : Inv s) : Control s := ⟨hs.flags, hs.owner, hs.counters⟩

/-- The control part at a phase known by name: its clauses are then those of that phase. -/
theorem Control.atPhase (hs : Control s) {p : Phase} (hpc : s.pc = p) :
    Control { s with pc := p } := by
  subst hpc
  exact hs

/-- R44: at `IDLE` the three flags are equal, and nothing else is asked. -/
theorem Control.respond (hb : s.irqBound = s.mapped) (hs : s.surface = s.mapped) (st : Status)
    (c : Cause) (data : List Byte) : Control (s.respond st c data) := ⟨⟨hb, hs⟩, trivial, trivial⟩

/-- With all three flags set a command answers into `IDLE`. -/
theorem Control.answer (hf : s.mapped = true ∧ s.irqBound = true ∧ s.surface = true) (st : Status)
    (c : Cause) (data : List Byte) : Control (s.respond st c data) := by
  obtain ⟨hm, hb, hs⟩ := hf
  exact .respond (hb.trans hm.symm) (hs.trans hm.symm) st c data

/-- A failed `ATTACH` answers with no flag set (R203). -/
theorem Control.raiseResource (c : Cause) : Control (s.raiseResource c) := .respond rfl rfl ..

/-! ## The ranges of the counters (R40) -/

theorem idx_zero_inRange : (0#10 : BitVec 10).toNat < Config.bufSize := by decide

theorem iter_zero_inRange : (0#15 : BitVec 15).toNat < Config.settleIters := by decide

theorem sub_zero_inRange : (0#2 : BitVec 2).toNat < 3 := by decide

theorem iter_succ_toNat (h : s.iter.toNat < 29999) : (s.iter + 1).toNat = s.iter.toNat + 1 := by
  simp [BitVec.toNat_add]
  omega

/-! ## The control registers along a step -/

/-- The advance of a busy engine keeps flags, `owner` and counters fit for the phase. -/
theorem Advance.control (hs : Control s) (h : Advance s t) : Control t := by
  cases h with
  | follow hpc h v =>
    have hp := hs.atPhase hpc
    cases h <;> exact ⟨hp.flags, hp.owner, hp.counters⟩
  | answer hpc v data =>
    rcases hpc with hpc | hpc | hpc | hpc <;>
      exact .answer (s := { s with tmp := v }) (hs.atPhase hpc).flags ..
  | count hpc hidx stage =>
    refine ⟨hs.flags, hs.owner, ?_⟩
    have hsucc := idx_succ_toNat hidx
    rcases hpc with hpc | hpc | hpc | hpc | hpc <;>
      simp only [countersFit, hpc, Config.bufSize] <;> omega
  | readEnd hpc stage =>
    rcases hpc with hpc | hpc <;>
      exact .answer (s := { s with stage := stage }) (hs.atPhase hpc).flags ..
  | dataEnd hpc hidx => exact ⟨(hs.atPhase hpc).flags, (hs.atPhase hpc).owner, trivial⟩
  | zeroAEnd hpc hidx => exact ⟨(hs.atPhase hpc).flags, (hs.atPhase hpc).owner, idx_zero_inRange⟩
  | zeroBEnd hpc hidx =>
    exact ⟨(hs.atPhase hpc).flags, (hs.atPhase hpc).owner, iter_zero_inRange, sub_zero_inRange⟩
  | settle hpc hiter k hk hk3 =>
    exact ⟨hs.flags, hs.owner, by simpa only [countersFit, hpc] using ⟨hiter, hk3⟩⟩
  | settleCount hpc hiter hsub =>
    have hsucc := iter_succ_toNat hiter
    refine ⟨hs.flags, hs.owner, ?_⟩
    simp only [countersFit, hpc, Config.settleIters]
    exact ⟨by omega, sub_zero_inRange⟩
  | settleEnd hpc hiter hsub => exact ⟨(hs.atPhase hpc).flags, (hs.atPhase hpc).owner, trivial⟩
  | resetAnswer hpc howner =>
    obtain ⟨hm, hb, hsurf⟩ := (hs.atPhase hpc).flags
    exact .answer ⟨hm, hb, hsurf.trans (decide_eq_true howner)⟩ ..
  | resetInAttach hpc howner =>
    obtain ⟨hm, hb, hsurf⟩ := (hs.atPhase hpc).flags
    exact ⟨⟨hm, hb, hsurf.trans (by simp [howner])⟩, howner, trivial⟩
  | record hpc diag k hk hk3 =>
    refine ⟨hs.flags, hs.owner, ?_⟩
    rcases hpc with hpc | hpc <;> simpa only [countersFit, hpc] using hk3
  | recordEnd hpc hsub diag => exact ⟨(hs.atPhase hpc).flags, (hs.atPhase hpc).owner, trivial⟩
  | ack hpc => exact ⟨(hs.atPhase hpc).flags, (hs.atPhase hpc).owner, sub_zero_inRange⟩
  | irqEnd hpc hsub diag =>
    exact .answer (s := { s with diag := diag, diagValid := true }) (hs.atPhase hpc).flags ..
  | map hpc =>
    obtain ⟨-, hb, hsurf⟩ := (hs.atPhase hpc).flags
    exact ⟨⟨rfl, hb, hsurf⟩, (hs.atPhase hpc).owner, trivial⟩
  | mapFail hpc => exact .raiseResource _
  | bindIrq hpc =>
    obtain ⟨hm, -, hsurf⟩ := (hs.atPhase hpc).flags
    exact ⟨⟨hm, rfl, hsurf⟩, (hs.atPhase hpc).owner, trivial⟩
  | unwind hpc => exact .raiseResource _
  | enterReset hpc =>
    have howner : s.owner = .life := (hs.atPhase hpc).owner
    obtain ⟨hm, hb, hsurf⟩ := (hs.atPhase hpc).flags
    refine ⟨⟨hm, hb, hsurf.trans ?_⟩, ?_, idx_zero_inRange⟩
    · simp [howner]
    · simp [ownerFits, howner]
  | openSurface hpc =>
    obtain ⟨hm, hb, -⟩ := (hs.atPhase hpc).flags
    exact .answer (s := { s with surface := true }) ⟨hm, hb, rfl⟩ ..
  | closeSurface hpc =>
    obtain ⟨hm, hb, -⟩ := (hs.atPhase hpc).flags
    exact ⟨⟨hm, hb, rfl⟩, (hs.atPhase hpc).owner, trivial⟩
  | unbindIrq hpc =>
    obtain ⟨hm, -, hsurf⟩ := (hs.atPhase hpc).flags
    exact ⟨⟨hm, rfl, hsurf⟩, (hs.atPhase hpc).owner, trivial⟩
  | unmap hpc =>
    obtain ⟨-, hb, hsurf⟩ := (hs.atPhase hpc).flags
    exact .respond hb hsurf ..

/-- Acceptance begins each sequence with flags, `owner` and counters fit for its first phase. -/
theorem Accepted.control (hb : s.irqBound = s.mapped) (hsurf : s.surface = s.mapped)
    (h : Accepted s t) : Control t := by
  have attached : s.mapped = true → s.mapped = true ∧ s.irqBound = true ∧ s.surface = true :=
    fun hm => ⟨hm, hb.trans hm, hsurf.trans hm⟩
  cases h with
  | answered st c data => exact .respond hb hsurf ..
  | register hg hp =>
    obtain ⟨howner, hopen⟩ := hg
    have hf := attached (hsurf.symm.trans hopen)
    rcases hp with rfl | rfl <;> exact ⟨hf, howner, trivial⟩
  | loop hg hp =>
    obtain ⟨howner, hopen⟩ := hg
    have hf := attached (hsurf.symm.trans hopen)
    rcases hp with rfl | rfl | rfl | rfl | rfl
    case inr.inr.inr.inr =>
      obtain ⟨hm, hb, -⟩ := hf
      refine ⟨⟨hm, hb, hopen.trans ?_⟩, ?_, idx_zero_inRange⟩
      · simp [howner]
      · simp [ownerFits, howner]
    all_goals exact ⟨hf, howner, idx_zero_inRange⟩
  | irqSvc hg => exact ⟨attached (hb.symm.trans hg), rfl, sub_zero_inRange⟩
  | attach hg => exact ⟨⟨hg, hb.trans hg, hsurf.trans hg⟩, rfl, trivial⟩
  | detach hg => exact ⟨attached (hsurf.symm.trans hg), rfl, trivial⟩

/-! ## The ports (R45) -/

/-- From `s` to `t` the ports gain no request, and a port that still has one is not closed (R193, R207). -/
structure PortsShrink (s t : State) : Prop where
  cmdReqs : t.cmdReqs.Sublist s.cmdReqs
  irqReq : ∀ r ∈ t.irqReq, r ∈ s.irqReq
  lifeReq : ∀ r ∈ t.lifeReq, r ∈ s.lifeReq
  turns : t.turns <:+ s.turns
  surface : t.cmdReqs ≠ [] → s.surface = true → t.surface = true
  irqBound : t.irqReq ≠ none → s.irqBound = true → t.irqBound = true

/-- An update that leaves ports, flags and turns, seen by unfolding it. -/
theorem PortsShrink.same (hc : t.cmdReqs = s.cmdReqs := by rfl) (hq : t.irqReq = s.irqReq := by rfl)
    (hl : t.lifeReq = s.lifeReq := by rfl) (ht : t.turns = s.turns := by rfl)
    (hs : t.surface = s.surface := by rfl) (hb : t.irqBound = s.irqBound := by rfl) :
    PortsShrink s t :=
  ⟨hc ▸ .refl _, fun _ => hq ▸ id, fun _ => hl ▸ id, ht ▸ List.suffix_rfl, fun _ => hs ▸ id,
    fun _ => hb ▸ id⟩

theorem PortsShrink.trans (h : PortsShrink s u) (h' : PortsShrink u t) : PortsShrink s t where
  cmdReqs := h'.cmdReqs.trans h.cmdReqs
  irqReq r hr := h.irqReq r (h'.irqReq r hr)
  lifeReq r hr := h.lifeReq r (h'.lifeReq r hr)
  turns := h'.turns.trans h.turns
  surface hne hs := h'.surface hne (h.surface (fun hu => hne (by simpa [hu] using h'.cmdReqs)) hs)
  irqBound hne hb := by
    obtain ⟨r, hr⟩ := Option.ne_none_iff_exists'.1 hne
    exact h'.irqBound hne (h.irqBound (by simp [show u.irqReq = some r from h'.irqReq r hr]) hb)

theorem BusAccess.portsShrink (h : BusAccess s u) : PortsShrink s u := by
  cases h <;> exact .same

theorem takeOff_portsShrink (s : State) (o : Offered) (d : Nat) :
    PortsShrink s (takeOff s o d) := by
  have hs : PortsShrink s s := .same
  cases o with
  | cmd k => exact { hs with
      cmdReqs := List.eraseIdx_sublist ..
      surface := fun _ => id }
  | irq => exact { hs with
      irqReq := fun _ hr => (by cases hr)
      irqBound := fun _ => id }
  | life => exact { hs with lifeReq := fun _ hr => (by cases hr) }

theorem Accepted.portsShrink (h : Accepted s t) : PortsShrink s t := by
  cases h <;> exact .same

/-- No phase adds a request, and a phase that clears a flag finds its port empty or clears it. -/
theorem Advance.portsShrink (hs : Control s) (h : Advance s t) : PortsShrink s t := by
  have hp : PortsShrink s s := .same
  cases h with
  | map | unmap => exact .same
  | bindIrq => exact { hp with irqBound := fun _ _ => rfl }
  | openSurface => exact { hp with surface := fun _ _ => rfl }
  | mapFail hpc =>
    obtain ⟨-, hb, hsurf⟩ := (hs.atPhase hpc).flags
    exact { hp with
      surface := fun _ h => (by cases hsurf.symm.trans h)
      irqBound := fun _ h => (by cases hb.symm.trans h) }
  | unwind hpc =>
    obtain ⟨-, hb, hsurf⟩ := (hs.atPhase hpc).flags
    exact { hp with
      surface := fun _ h => (by cases hsurf.symm.trans h)
      irqBound := fun _ h => (by cases hb.symm.trans h) }
  | closeSurface => exact { hp with
      cmdReqs := List.nil_sublist _
      surface := fun h => absurd rfl h }
  | unbindIrq => exact { hp with
      irqReq := fun _ hr => (by cases hr)
      irqBound := fun h => absurd rfl h }
  | _ => exact .same

/-! ## The invariant along a step -/

/-- With its ports shrunk, a state of the invariant needs its window and control registers only. -/
theorem Inv.of_portsShrink (hs : Inv s) (hp : PortsShrink s t) (hm : t.mem.wf) (hc : Control t) :
    Inv t where
  memory := hm
  flags := hc.flags
  owner := hc.owner
  counters := hc.counters
  cmdPort hne := hp.surface hne (hs.cmdPort fun hnil => hne (by simpa [hnil] using hp.cmdReqs))
  irqPort hne := by
    obtain ⟨r, hr⟩ := Option.ne_none_iff_exists'.1 hne
    exact hp.irqBound hne (hs.irqPort (by simp [show s.irqReq = some r from hp.irqReq r hr]))
  cmdReqs r hr := hs.cmdReqs r (hp.cmdReqs.subset hr)
  irqReq r hr := hs.irqReq r (hp.irqReq r hr)
  lifeReq r hr := hs.lifeReq r (hp.lifeReq r hr)
  turns r hr := hs.turns r (hp.turns.subset hr)

theorem BusAccess.wf (hm : s.mem.wf) (h : BusAccess s u) : u.mem.wf := by
  cases h with
  | none => exact hm
  | rd8 => exact hm
  | wr8 off v => exact s.wf_store off v hm
  | wr32 off v => exact s.wf_storeWord off v hm

theorem OneAccess.wf (hm : s.mem.wf) (h : OneAccess s t) : t.mem.wf := by
  obtain ⟨u, ha, hb⟩ := h
  exact hb.mem ▸ ha.wf hm

/-- An access changes neither flags, nor `owner`, nor a counter. -/
theorem BusAccess.control (hs : Control s) (h : BusAccess s u) : Control u := by
  obtain ⟨hf, ho, hc⟩ := hs
  cases h <;> exact ⟨hf, ho, hc⟩

/-- Every engine step keeps the invariant. -/
theorem engineStep_inv {pick : Option Nat} (hs : Inv s) (h : engineStep pick s = .next t) :
    Inv t := by
  have hm : t.mem.wf := (engineStep_oneAccess h).wf hs.memory
  rcases engineStep_cases h with ⟨hpc, rfl | ⟨o, d, ha⟩⟩ | ⟨-, u, ha, -, hadv⟩
  · exact hs
  · obtain ⟨hb, hsurf⟩ := (hs.control.atPhase hpc).flags
    have hc : Control t := ha.control (by cases o <;> exact hb) (by cases o <;> exact hsurf)
    exact hs.of_portsShrink ((takeOff_portsShrink s o d).trans ha.portsShrink) hm hc
  · have hu := ha.control hs.control
    exact hs.of_portsShrink (ha.portsShrink.trans (hadv.portsShrink hu)) hm (hadv.control hu)

end Sys2Proof.Machine
end

section
/-!
SUPPORT. What any step can do, the environment's included (00_scope.md R14): the engine's own step after
its turn is taken off the list, a target step or an offer; and the invariant along each of them.
-/
namespace Sys2Proof.Machine

variable {s t : State}

/-! ## One step -/

/-- Whose step it is. The engine's begins from the state with the turns that are left. -/
theorem step_agent (h : step s = .next t) :
    (∃ pick rest, rest <:+ s.turns ∧ engineStep pick { s with turns := rest } = .next t) ∨
    (∃ w q rest, s.turns = .target w q :: rest ∧ t = targetStep w q { s with turns := rest }) ∨
    (∃ p r rest, s.turns = .offer p r :: rest ∧ t = offerOn p r { s with turns := rest }) := by
  rcases step_cases h with ⟨-, he⟩ | ⟨k, rest, hturns, he⟩ | htarget | hoffer
  · exact .inl ⟨none, s.turns, List.suffix_rfl, he⟩
  · exact .inl ⟨some k, rest, hturns ▸ List.suffix_cons .., he⟩
  · exact .inr (.inl htarget)
  · exact .inr (.inr hoffer)

/-- Everything an offer can do: nothing, or hold the request on a port that takes it (R45, R207). -/
theorem offerOn_cases (p : Port) (r : Request) (s : State) :
    offerOn p r s = s ∨
    (p = .cmd ∧ s.surface = true ∧ offerOn p r s = { s with cmdReqs := s.cmdReqs ++ [r] }) ∨
    (p = .irq ∧ s.irqBound = true ∧ offerOn p r s = { s with irqReq := some r }) ∨
    (p = .life ∧ offerOn p r s = { s with lifeReq := some r }) := by
  cases p with
  | cmd =>
    by_cases h : s.surface = true
    · exact .inr (.inl ⟨rfl, h, if_pos h⟩)
    · exact .inl (if_neg h)
  | irq =>
    by_cases h : (s.irqBound && s.irqReq.isNone) = true
    · exact .inr (.inr (.inl ⟨rfl, (Bool.and_eq_true_iff.1 h).1, if_pos h⟩))
    · exact .inl (if_neg h)
  | life =>
    by_cases h : (lifeSlotFree s && (s.busy || lifeGate s r)) = true
    · exact .inr (.inr (.inr ⟨rfl, if_pos h⟩))
    · exact .inl (if_neg h)

/-! ## The invariant along a step -/

theorem Inv.withTurns {rest : List Turn} (hs : Inv s) (h : rest <:+ s.turns) :
    Inv { s with turns := rest } :=
  hs.of_portsShrink { (PortsShrink.same : PortsShrink s s) with turns := h } hs.memory
    ⟨hs.flags, hs.owner, hs.counters⟩

/-- The target's writes keep the canonical form of the window (R75). -/
theorem targetWrites_wf (p : Params) (w : List (Offset × Byte)) {m : Memory} (hm : m.wf) :
    (w.foldl (targetWrite p) m).wf := by
  induction w generalizing m with
  | nil => exact hm
  | cons c w ih =>
    refine ih ?_
    unfold targetWrite
    split
    · exact Memory.wf_write_offset c.1 c.2 hm
    · exact hm

theorem targetStep_inv (w : List (Offset × Byte)) (q : Bool) (hs : Inv s) :
    Inv (targetStep w q s) :=
  hs.of_portsShrink .same (targetWrites_wf s.params w hs.memory) ⟨hs.flags, hs.owner, hs.counters⟩

/-- A request is held only on an open port, as the front end built it. -/
theorem offerOn_inv {p : Port} {r : Request} (hr : r.wellFormed = true) (hs : Inv s) :
    Inv (offerOn p r s) := by
  rcases offerOn_cases p r s with h | ⟨-, hopen, h⟩ | ⟨-, hopen, h⟩ | ⟨-, h⟩ <;> rw [h]
  · exact hs
  · exact { hs with
      cmdPort := fun _ => hopen
      cmdReqs := fun r' h' => by
        rcases List.mem_append.1 h' with h' | h'
        · exact hs.cmdReqs r' h'
        · exact List.mem_singleton.1 h' ▸ hr }
  · exact { hs with
      irqPort := fun _ => hopen
      irqReq := fun r' h' => Option.some.inj h' ▸ hr }
  · exact { hs with lifeReq := fun r' h' => Option.some.inj h' ▸ hr }

/-- R44: what the flags of each phase say of each other. -/
theorem flags_nested (hflags : flagsFit s) :
    (s.surface = true → s.irqBound = true) ∧ (s.irqBound = true → s.mapped = true) ∧
      (s.pc ≠ .idle → s.pc ≠ .atMap → s.mapped = true) := by
  unfold flagsFit at hflags
  split at hflags
  case h_1 hpc =>
    obtain ⟨hb, hsurf⟩ := hflags
    exact ⟨fun h => hb.trans (hsurf.symm.trans h), fun h => hb.symm.trans h, fun h => absurd hpc h⟩
  case h_2 hpc =>
    obtain ⟨-, hb, hsurf⟩ := hflags
    exact ⟨by simp [hsurf], by simp [hb], fun _ h => absurd hpc h⟩
  all_goals
    obtain ⟨hm, hb, hsurf⟩ := hflags
    exact ⟨by simp [hb, hsurf], fun _ => hm, fun _ _ => hm⟩

/-! ## Instantiation (R48) -/

theorem reset_atInstantiation : State.reset.AtInstantiation :=
  ⟨Memory.wf_nil, rfl, rfl, rfl, rfl, rfl, rfl, rfl, rfl, rfl, rfl⟩

theorem State.AtInstantiation.inv (hs : s.AtInstantiation)
    (hturns : ∀ t ∈ s.turns, t.wellFormed = true) : Inv s where
  memory := hs.memory
  flags := by simp [flagsFit, hs.pc, hs.mapped, hs.irqBound, hs.surface]
  owner := by simp [ownerFits, hs.pc]
  counters := by simp [countersFit, hs.pc]
  cmdPort h := absurd hs.cmdReqs h
  irqPort h := absurd hs.irqReq h
  cmdReqs := by simp [hs.cmdReqs]
  irqReq := by simp [hs.irqReq]
  lifeReq := by simp [hs.lifeReq]
  turns := hturns

/-- With nothing offered the arbiter has nothing to choose from (R209). -/
theorem candidates_of_nothing_offered (hc : s.cmdReqs = []) (hq : s.irqReq = none)
    (hl : s.lifeReq = none) : candidates s = [] := by
  simp [candidates, acceptable, offeredRequest, hc, hq, hl]

end Sys2Proof.Machine

open Sys2Proof Sys2Proof.Machine

/-- Settles O49: an engine step by its advance or its acceptance, a target step and an offer by what they
touch. -/
theorem everyStepKeepsTheInvariant : Obligations.EveryStepKeepsTheInvariant := by
  intro s t hs h
  rcases step_agent h with ⟨pick, rest, hrest, he⟩ | ⟨w, q, rest, hturns, rfl⟩ |
    ⟨p, r, rest, hturns, rfl⟩
  · exact engineStep_inv (hs.withTurns hrest) he
  · exact targetStep_inv w q (hs.withTurns (hturns ▸ List.suffix_cons ..))
  · have hr : r.wellFormed = true := hs.turns (.offer p r) (hturns ▸ List.mem_cons_self ..)
    exact offerOn_inv hr (hs.withTurns (hturns ▸ List.suffix_cons ..))

/-- Settles O48: at instantiation the flags are clear and nothing is offered. -/
theorem invariantHoldsAtInstantiation : Obligations.InvariantHoldsAtInstantiation :=
  ⟨reset_atInstantiation.inv fun _ h => (by cases h), fun _ hs => hs.inv⟩

/-- Settles O47: with nothing offered the arbiter finds no candidate. -/
theorem instantiatedEngineIdles : Obligations.InstantiatedEngineIdles := by
  refine ⟨reset_atInstantiation, fun s hs => ⟨?_, fun hq => ?_⟩⟩
  · simp [State.diagOutput, hs.diagValid]
  · have hnone := candidates_of_nothing_offered hs.cmdReqs hs.irqReq hs.lifeReq
    rw [step_idle hq hs.pc, arbitrate, hnone]

/-- Settles O52: read off the flags of each phase. -/
theorem openPortsHaveTheWindowMapped : Obligations.OpenPortsHaveTheWindowMapped :=
  fun _ hs => flags_nested hs.flags
end

section
/-!
SUPPORT. The measure `stepsLeft` (10_state.md R43, 70_reset_and_hazards.md R250): it falls with each step
of a busy engine, and a busy engine of the invariant always has its step.
-/
namespace Sys2Proof.Machine

variable {s t u : State}

/-- The advance of a busy engine comes nearer to `IDLE`. -/
theorem Advance.nearer (hs : Control s) (h : Advance s t) : stepsLeft t < stepsLeft s := by
  cases h with
  | follow hpc h v =>
    cases h with
    | xbPreRd | xbPreWr =>
      have hidx : s.idx.toNat < 1020 := (hs.atPhase hpc).counters
      simp only [stepsLeft, hpc]
      omega
    | _ => simp [stepsLeft, hpc]
  | answer hpc v data => rcases hpc with hpc | hpc | hpc | hpc <;> simp [stepsLeft, hpc]
  | count hpc hidx stage =>
    have hsucc := idx_succ_toNat hidx
    rcases hpc with hpc | hpc | hpc | hpc | hpc <;> simp only [stepsLeft, hpc] <;> omega
  | readEnd hpc stage =>
    rcases hpc with hpc | hpc
    all_goals
      have hidx : s.idx.toNat < 1020 := (hs.atPhase hpc).counters
      simp only [stepsLeft, hpc, State.respond_pc]
      omega
  | dataEnd hpc hidx | zeroAEnd hpc hidx | zeroBEnd hpc hidx => simp [stepsLeft, hpc, hidx]
  | settle hpc hiter k hk hk3 =>
    simp only [stepsLeft, hpc]
    omega
  | settleCount hpc hiter hsub =>
    have hsucc := iter_succ_toNat hiter
    simp only [stepsLeft, hpc, hsucc, hsub, BitVec.toNat_ofNat]
    omega
  | settleEnd hpc hiter hsub => simp [stepsLeft, hpc, hiter, hsub]
  | record hpc diag k hk hk3 =>
    rcases hpc with hpc | hpc <;> simp only [stepsLeft, hpc] <;> omega
  | recordEnd hpc hsub diag => simp [stepsLeft, hpc, hsub]
  | irqEnd hpc hsub diag => simp [stepsLeft, hpc, hsub, State.finishIrq]
  | mapFail hpc | unwind hpc => simp [stepsLeft, hpc, State.raiseResource]
  | resetAnswer hpc | resetInAttach hpc | ack hpc | map hpc | bindIrq hpc | enterReset hpc
  | openSurface hpc | closeSurface hpc | unbindIrq hpc | unmap hpc => simp [stepsLeft, hpc]

theorem BusAccess.stepsLeft_eq (h : BusAccess s u) : stepsLeft u = stepsLeft s := by
  cases h <;> rfl

/-- R43: each step of a busy engine comes nearer to `IDLE`. -/
theorem engineStep_nearer {pick : Option Nat} (hs : Inv s) (hpc : s.pc ≠ .idle)
    (h : engineStep pick s = .next t) : stepsLeft t < stepsLeft s := by
  obtain ⟨u, ha, -, hadv⟩ := phaseStep_busyStep hpc (engineStep_busy hpc ▸ h)
  exact ha.stepsLeft_eq ▸ hadv.nearer (ha.control hs.control)

/-- The measure in the counter ranges of the invariant. -/
theorem Inv.stepsLeft_range (hs : Inv s) :
    stepsLeft s ≤ 92048 ∧ (stepsLeft s = 0 ↔ s.pc = .idle) := by
  cases hpc : s.pc with
  | zp | rb | xbPreRd | xbPreWr | xData | rsZa | rsZb =>
    have hidx : s.idx.toNat < 1020 := (hs.control.atPhase hpc).counters
    simp only [stepsLeft, hpc, reduceCtorEq, iff_false]
    omega
  | rsSettle =>
    obtain ⟨hiter, hsub⟩ := (hs.control.atPhase hpc).counters
    change s.iter.toNat < 30000 at hiter
    simp only [stepsLeft, hpc, reduceCtorEq, iff_false]
    omega
  | iqPre | iqPost =>
    have hsub : s.sub.toNat < 3 := (hs.control.atPhase hpc).counters
    simp only [stepsLeft, hpc, reduceCtorEq, iff_false]
    omega
  | _ => simp [stepsLeft, hpc]

/-! ## A busy engine has its step -/

theorem rd8_goes {off : Offset} {next : Byte × State → State} (hm : s.mapped = true) :
    ∃ t, andThen (rd8 off s) (fun r => .next (next r)) = .next t :=
  ⟨_, by rw [rd8_of_mapped off hm, andThen_next]⟩

theorem wr8_goes {off : Offset} {v : Byte} {next : State → State} (hm : s.mapped = true) :
    ∃ t, andThen (wr8 off v s) (fun u => .next (next u)) = .next t :=
  ⟨_, by rw [wr8_of_mapped off v hm, andThen_next]⟩

theorem readLoop_goes {base : Offset} (hm : s.mapped = true) (hidx : s.idx.toNat < 1020) :
    ∃ t, readLoop base s = .next t := ⟨_, readLoop_of_mapped base hm hidx⟩

theorem zeroLoop_goes {base : Offset} {atEnd : State → State} (hm : s.mapped = true)
    (hidx : s.idx.toNat < 1020) : ∃ t, zeroLoop base atEnd s = .next t :=
  ⟨_, zeroLoop_of_mapped base atEnd hm hidx⟩

/-- The values of `sub` in its range (R40). -/
theorem sub_values (h : s.sub.toNat < 3) : s.sub = 0#2 ∨ s.sub = 1#2 ∨ s.sub = 2#2 := by
  bv_omega

theorem phaseRsSettle_goes (hm : s.mapped = true) (hiter : s.iter.toNat < 30000)
    (hsub : s.sub.toNat < 3) : ∃ t, phaseRsSettle s = .next t := by
  rcases sub_values hsub with h | h | h
  · exact ⟨_, phaseRsSettle_bootp hm hiter h⟩
  · exact ⟨_, phaseRsSettle_bufB hm hiter h⟩
  · exact ⟨_, phaseRsSettle_bufA hm hiter h⟩

theorem finishReset_goes (ho : s.owner ≠ .irq) : ∃ t, finishReset s = .next t := by
  unfold finishReset
  split
  · exact ⟨_, rfl⟩
  · exact ⟨_, rfl⟩
  · exact absurd ‹_› ho

theorem phaseRsStA0_goes (hm : s.mapped = true) (ho : s.owner ≠ .irq) :
    ∃ t, phaseRsStA0 s = .next t := by
  rw [phaseRsStA0_of_mapped hm]
  exact finishReset_goes ho

theorem phaseIqPre_goes (hm : s.mapped = true) (hsub : s.sub.toNat < 3) :
    ∃ t, phaseIqPre s = .next t := by
  unfold phaseIqPre
  rcases sub_values hsub with h | h | h <;> simp [h, recordDiag_of_mapped, hm]

theorem phaseIqPost_goes (hm : s.mapped = true) (hsub : s.sub.toNat < 3) :
    ∃ t, phaseIqPost s = .next t := by
  unfold phaseIqPost
  rcases sub_values hsub with h | h | h <;> simp [h, recordDiag_of_mapped, hm]

theorem phaseAtMap_goes (s : State) : ∃ t, phaseAtMap s = .next t := by
  unfold phaseAtMap
  split <;> exact ⟨_, rfl⟩

theorem phaseAtIrq_goes (s : State) : ∃ t, phaseAtIrq s = .next t := by
  unfold phaseAtIrq
  split <;> exact ⟨_, rfl⟩

/-- With the window mapped a phase stops only outside its counter range or at a wrong `owner`. -/
theorem phaseStep_goes_of_mapped (hs : Control s) (hm : s.mapped = true) :
    ∃ t, phaseStep s = .next t := by
  unfold phaseStep
  cases hpc : s.pc with
  | idle | atUnwind | atSurf | dtSurf | dtIrq | dtMap => exact ⟨_, rfl⟩
  | gRd | xbPreRd | xSt1 | xSt2 | rsStRd | iqRd => exact rd8_goes hm
  | sWr | xbPreWr | xBell | xNudge | rsRun | rsStWr | iqWr | atDipsw => exact wr8_goes hm
  | zp | rb => exact readLoop_goes hm (hs.atPhase hpc).counters
  | xData => exact ⟨_, phaseXData_of_mapped hm (hs.atPhase hpc).counters⟩
  | rsZa | rsZb => exact zeroLoop_goes hm (hs.atPhase hpc).counters
  | rsSettle =>
    obtain ⟨hiter, hsub⟩ := (hs.atPhase hpc).counters
    exact phaseRsSettle_goes hm hiter hsub
  | rsStA0 => exact phaseRsStA0_goes hm (hs.atPhase hpc).owner
  | iqPre => exact phaseIqPre_goes hm (hs.atPhase hpc).counters
  | iqPost => exact phaseIqPost_goes hm (hs.atPhase hpc).counters
  | atMap => exact phaseAtMap_goes s
  | atIrq => exact phaseAtIrq_goes s

/-- R67, R204: no phase of the invariant stops. -/
theorem phaseStep_goes (hs : Control s) (hpc : s.pc ≠ .idle) : ∃ t, phaseStep s = .next t := by
  obtain ⟨-, -, hmapped⟩ := flags_nested hs.flags
  by_cases hmap : s.pc = .atMap
  · rw [phaseStep, hmap]
    exact phaseAtMap_goes s
  · exact phaseStep_goes_of_mapped hs (hmapped hpc hmap)

/-- A phase takes no turn. -/
theorem phaseStep_turns (hs : Control s) (hq : s.Quiet) (hpc : s.pc ≠ .idle)
    (h : phaseStep s = .next t) : t.Quiet := by
  obtain ⟨u, ha, -, hadv⟩ := phaseStep_busyStep hpc h
  have hturns : t.turns <:+ s.turns :=
    (ha.portsShrink.trans (hadv.portsShrink (ha.control hs))).turns
  exact List.suffix_nil.1 (hq ▸ hturns)

/-- R43: with no other turn due the engine reaches `IDLE` within `stepsLeft` steps. -/
theorem reaches_idle (n : Nat) : ∀ s : State, Inv s → s.Quiet → stepsLeft s ≤ n →
    ∃ k t, k ≤ n ∧ run k s = .next t ∧ t.pc = .idle := by
  induction n with
  | zero => exact fun s hs _ hn =>
      ⟨0, s, le_rfl, rfl, hs.stepsLeft_range.2.1 (Nat.le_zero.1 hn)⟩
  | succ n ih =>
    intro s hs hq hn
    by_cases hpc : s.pc = .idle
    · exact ⟨0, s, Nat.zero_le _, rfl, hpc⟩
    · obtain ⟨u, hu⟩ := phaseStep_goes hs.control hpc
      have he : engineStep none s = .next u := (engineStep_busy hpc).trans hu
      have hfewer : stepsLeft u ≤ n := by
        have := engineStep_nearer hs hpc he
        omega
      obtain ⟨k, t, hk, hrun, ht⟩ :=
        ih u (engineStep_inv hs he) (phaseStep_turns hs.control hq hpc hu) hfewer
      exact ⟨k + 1, t, Nat.succ_le_succ hk, (run_of_step ((step_busy hq hpc).trans hu)).trans hrun,
        ht⟩

theorem offerOn_stepsLeft (p : Port) (r : Request) (s : State) :
    stepsLeft (offerOn p r s) = stepsLeft s := by
  rcases offerOn_cases p r s with h | ⟨-, -, h⟩ | ⟨-, -, h⟩ | ⟨-, h⟩ <;> rw [h] <;> rfl

end Sys2Proof.Machine

open Sys2Proof Sys2Proof.Machine

/-- Settles O59: the measure falls with each advance, and the other agents leave `pc` and the counters. -/
theorem everyEngineStepComesNearerToIdle : Obligations.EveryEngineStepComesNearerToIdle := by
  refine ⟨fun s hs => hs.stepsLeft_range, fun s t pick hs => engineStep_nearer hs, ?_⟩
  intro s t turn rest hturns hturn h
  cases turn with
  | engine k => exact absurd rfl (hturn k)
  | target w q =>
    cases (step_target hturns).symm.trans h
    rfl
  | offer p r =>
    cases (step_offer hturns).symm.trans h
    exact offerOn_stepsLeft p r { s with turns := rest }

/-- Settles O51, by induction on the measure. -/
theorem everySequenceEndsInIdle : Obligations.EverySequenceEndsInIdle :=
  fun s hs hq => reaches_idle 92048 s hs hq hs.stepsLeft_range.1
end

section
/-!
SUPPORT. What single phases alone change (10_state.md R31, R41, R44): the lifecycle flags, the diagnostic
record, and the window with its event.
-/
namespace Sys2Proof.Machine

variable {s t u : State}

/-! ## The lifecycle flags and the diagnostic record -/

/-- The phases that change a lifecycle flag (R44, 44_lifecycle.md R191, R193). -/
def flagPhases : List Phase := [.atMap, .atIrq, .atUnwind, .atSurf, .dtSurf, .dtIrq, .dtMap]

/-- From `s` to `t` the lifecycle flags stay. -/
def FlagsKept (s t : State) : Prop :=
  t.mapped = s.mapped ∧ t.irqBound = s.irqBound ∧ t.surface = s.surface

/-- From `s` to `t` the diagnostic record stays, and whether it has a value. -/
def DiagKept (s t : State) : Prop := t.diag = s.diag ∧ t.diagValid = s.diagValid

theorem Advance.flags (h : Advance s t) : FlagsKept s t ∨ s.pc ∈ flagPhases := by
  cases h with
  | map hpc | mapFail hpc | bindIrq hpc | unwind hpc | openSurface hpc | closeSurface hpc
  | unbindIrq hpc | unmap hpc => exact .inr (by simp [hpc, flagPhases])
  | _ => exact .inl ⟨rfl, rfl, rfl⟩

theorem Advance.diag (h : Advance s t) : DiagKept s t ∨ s.pc = .iqPre ∨ s.pc = .iqPost := by
  cases h with
  | record hpc => exact .inr hpc
  | recordEnd hpc => exact .inr (.inl hpc)
  | irqEnd hpc => exact .inr (.inr hpc)
  | _ => exact .inl ⟨rfl, rfl⟩

/-- Acceptance changes neither (R104). -/
theorem IdleStep.kept (h : IdleStep s t) : FlagsKept s t ∧ DiagKept s t := by
  rcases h with rfl | ⟨o, d, ha⟩
  · exact ⟨⟨rfl, rfl, rfl⟩, rfl, rfl⟩
  · cases ha <;> cases o <;> exact ⟨⟨rfl, rfl, rfl⟩, rfl, rfl⟩

theorem offerOn_kept (p : Port) (r : Request) (s : State) :
    FlagsKept s (offerOn p r s) ∧ DiagKept s (offerOn p r s) := by
  rcases offerOn_cases p r s with h | ⟨-, -, h⟩ | ⟨-, -, h⟩ | ⟨-, h⟩ <;> rw [h] <;>
    exact ⟨⟨rfl, rfl, rfl⟩, rfl, rfl⟩

theorem engineStep_kept {pick : Option Nat} (h : engineStep pick s = .next t) :
    (FlagsKept s t ∨ s.pc ∈ flagPhases) ∧ (DiagKept s t ∨ s.pc = .iqPre ∨ s.pc = .iqPost) := by
  rcases engineStep_cases h with ⟨-, hidle⟩ | ⟨-, u, ha, -, hadv⟩
  · exact hidle.kept.imp .inl .inl
  · cases ha <;> exact ⟨hadv.flags, hadv.diag⟩

/-- Which steps change a lifecycle flag, and which the diagnostic record. -/
theorem step_kept (h : step s = .next t) :
    (FlagsKept s t ∨ s.pc ∈ flagPhases) ∧ (DiagKept s t ∨ s.pc = .iqPre ∨ s.pc = .iqPost) := by
  rcases step_agent h with ⟨pick, rest, -, he⟩ | ⟨w, q, rest, -, rfl⟩ | ⟨p, r, rest, -, rfl⟩
  · exact engineStep_kept (s := { s with turns := rest }) he
  · exact ⟨.inl ⟨rfl, rfl, rfl⟩, .inl ⟨rfl, rfl⟩⟩
  · exact (offerOn_kept p r { s with turns := rest }).imp .inl .inl

/-! ## The window and its events -/

/-- R31: the window changes exactly as the appended event says, and a byte read is the byte held. -/
def ChangesAsTraced (s t : State) : Prop :=
  (t.trace = s.trace ∧ t.mem = s.mem) ∨
    ∃ e, t.trace = s.trace ++ [e] ∧ (∀ a, t.byteAt a = eventByte e a (s.byteAt a)) ∧
      ∀ off v, e = .rd8 off v → v = s.byteAt off

/-- The four bytes of a 32-bit write are distinct, so their order does not matter. -/
theorem byteAt_storeWord_eq_eventByte (off a : Offset) (v : Word32) (hm : s.mem.wf) :
    (s.storeWord off v).byteAt a = eventByte (.wr32 off v) a (s.byteAt a) := by
  rw [State.byteAt_storeWord s off a v hm, eventByte]
  by_cases h0 : a = off
  · simp [h0]
  · by_cases h1 : a = off + 1
    · simp [h1]
    · by_cases h2 : a = off + 2
      · simp [h2]
      · simp only [if_neg h0, if_neg h1, if_neg h2]

theorem BusAccess.changesAsTraced (hm : s.mem.wf) (h : BusAccess s u) : ChangesAsTraced s u := by
  cases h with
  | none => exact .inl ⟨rfl, rfl⟩
  | rd8 off => exact .inr ⟨_, rfl, fun _ => rfl, fun o v he => by cases he; rfl⟩
  | wr8 off v =>
    exact .inr ⟨_, rfl, fun a => State.byteAt_store s off a v hm, fun o w he => by cases he⟩
  | wr32 off v =>
    exact .inr ⟨_, rfl, fun a => byteAt_storeWord_eq_eventByte off a v hm, fun o w he => by cases he⟩

theorem Bookkeeping.changesAsTraced (h : ChangesAsTraced s u) (hb : Bookkeeping u t) :
    ChangesAsTraced s t := by
  unfold ChangesAsTraced State.byteAt
  rw [hb.trace, hb.mem]
  exact h

/-! ## An offer on the lifecycle port (R45) -/

theorem lifeSlotFree_of_none (h : s.lifeReq = none) : lifeSlotFree s = true := by
  simp [lifeSlotFree, h]

theorem lifeSlotFree_of_some {r : Request} (h : s.lifeReq = some r) :
    lifeSlotFree s = (s.pc == .idle && !lifeGate s r) := by
  simp [lifeSlotFree, h]

theorem offerOn_life_held {r : Request} (hfree : lifeSlotFree s = true)
    (hstep : s.pc ≠ .idle ∨ lifeGate s r = true) :
    offerOn .life r s = { s with lifeReq := some r } := by
  rcases hstep with h | h <;> simp [offerOn, State.busy, hfree, h]

theorem offerOn_life_full {r : Request} (h : lifeSlotFree s = false) : offerOn .life r s = s := by
  simp [offerOn, h]

theorem offerOn_life_closed {r : Request} (hidle : s.pc = .idle) (h : lifeGate s r = false) :
    offerOn .life r s = s := by
  simp [offerOn, State.busy, hidle, h]

/-! ## The holes of the window -/

theorem Advance.mem (h : Advance s t) : t.mem = s.mem := by
  cases h <;> rfl

/-- R30: no engine step writes a hole. -/
theorem engineStep_holesKept {pick : Option Nat} (h : engineStep pick s = .next t) :
    HolesKept s t := by
  rcases engineStep_cases h with ⟨hpc, -⟩ | ⟨-, u, -, hu, hadv⟩
  · exact fun a _ => State.byteAt_of_mem (arbitrate_bookkeeping (engineStep_idle hpc ▸ h)).mem a
  · exact fun a ha => (State.byteAt_of_mem hadv.mem a).trans (hu a ha)

end Sys2Proof.Machine

open Sys2Proof Sys2Proof.Machine

/-- Settles O42: the one advance of each other phase, and acceptance, leave the three flags. -/
theorem lifecycleFlagsChangeOnlyInAttachAndDetach :
    Obligations.LifecycleFlagsChangeOnlyInAttachAndDetach := by
  intro s t h hchange
  rcases (step_kept h).1 with ⟨hm, hb, hsurf⟩ | hpc
  · simp [hm, hb, hsurf] at hchange
  · exact hpc

/-- Settles O57: only the advances that record a byte, or end the service, touch the record. -/
theorem onlyInterruptServiceWritesDiag : Obligations.OnlyInterruptServiceWritesDiag := by
  intro s t h hchange
  rcases (step_kept h).2 with ⟨hd, hv⟩ | hpc
  · simp [hd, hv] at hchange
  · exact hpc

/-- Settles O54: an access does to the window what its event says, and the bookkeeping after it nothing. -/
theorem windowChangesExactlyAsTraced : Obligations.WindowChangesExactlyAsTraced := by
  intro s t hm hturn h
  rcases step_agent h with ⟨pick, rest, -, he⟩ | ⟨w, q, rest, hturns, -⟩ | ⟨p, r, rest, -, rfl⟩
  · obtain ⟨u, ha, hb⟩ := engineStep_oneAccess he
    exact hb.changesAsTraced (ha.changesAsTraced (s := { s with turns := rest }) hm)
  · exact absurd hturns (hturn w q rest)
  · have hb := offerOn_bookkeeping p r { s with turns := rest }
    exact .inl ⟨hb.trace, hb.mem⟩

/-- Settles O55: no access of a phase names an offset in a hole. -/
theorem engineNeverWritesAHole : Obligations.EngineNeverWritesAHole := by
  intro s t _ hturn h a ha
  rcases step_agent h with ⟨pick, rest, -, he⟩ | ⟨w, q, rest, hturns, -⟩ | ⟨p, r, rest, -, rfl⟩
  · exact engineStep_holesKept he a ha
  · exact absurd hturns (hturn w q rest)
  · exact State.byteAt_of_mem (offerOn_bookkeeping p r { s with turns := rest }).mem a

/-- Settles O44: each clause is one branch of the offer. -/
theorem offersAreHeldOnOpenPorts : Obligations.OffersAreHeldOnOpenPorts := by
  intro s p r rest hturns
  rw [step_offer hturns]
  refine ⟨?_, ?_, ?_, ?_, ?_, ?_, ?_⟩
  · rintro rfl hopen
    simp [offerOn, hopen]
  · rintro rfl hopen hfree
    simp [offerOn, hopen, hfree]
  · rintro rfl hnone hstep
    exact congrArg _ (offerOn_life_held (lifeSlotFree_of_none hnone) hstep)
  · rintro rfl hnone hidle hclosed
    exact congrArg _ (offerOn_life_closed hidle hclosed)
  · rintro r' rfl hsome hstep
    refine congrArg _ (offerOn_life_full ((lifeSlotFree_of_some hsome).trans ?_))
    show (s.pc == .idle && !lifeGate s r') = false
    rcases hstep with h | h <;> simp [h]
  · rintro r' rfl hsome hidle hclosed
    by_cases hgate : lifeGate s r = true
    · have hfree : lifeSlotFree { s with turns := rest } = true := by
        refine (lifeSlotFree_of_some hsome).trans ?_
        show (s.pc == .idle && !lifeGate s r') = true
        simp [hidle, hclosed]
      rw [if_pos hgate, offerOn_life_held hfree (.inr hgate)]
    · rw [if_neg hgate, ← hsome]
      exact congrArg _ (offerOn_life_closed hidle (Bool.not_eq_true _ ▸ hgate))
  · rintro (⟨rfl, h⟩ | ⟨rfl, h⟩ | ⟨rfl, h⟩) <;> simp [offerOn, h]
end

section
/-!
SUPPORT. Two runs side by side: what a step of one state says of the step of another. Each shape a step is
built from carries over what holds of the two next states, and so do acceptance, the arbiter and a turn.
-/
namespace Sys2Proof.Machine

/-- Where the first outcome is a next state so is the second, and the two states are related. -/
def Lifts (R : State → State → Prop) (o o' : Result) : Prop :=
  ∀ t, o = .next t → ∃ t', o' = .next t' ∧ R t t'

variable {R : State → State → Prop} {s s' u u' : State}

/-! ## The shapes a step is built from -/

theorem lifts_next (h : R u u') : Lifts R (.next u) (.next u') := by
  rintro t ⟨⟩
  exact ⟨u', rfl, h⟩

theorem lifts_stopped {r : Fault} {o : Result} : Lifts R (.fault r) o := fun _ h => by cases h

theorem lifts_refused {r : Refusal} {o : Result} : Lifts R (.refused r) o := fun _ h => by cases h

theorem lifts_ite {c : Prop} [Decidable c] {a b a' b' : Result} (ha : c → Lifts R a a')
    (hb : ¬ c → Lifts R b b') : Lifts R (if c then a else b) (if c then a' else b') := by
  split
  · exact ha ‹_›
  · exact hb ‹_›

theorem lifts_rd8 {off : Offset} {f f' : Byte × State → Result}
    (h : ∀ v, Lifts R (f (v, s.emit (.rd8 off v))) (f' (v, s'.emit (.rd8 off v))))
    (hm : s'.mapped = s.mapped := by rfl) (hw : s'.mem = s.mem := by rfl) :
    Lifts R (andThen (rd8 off s) f) (andThen (rd8 off s') f') := by
  rw [rd8, rd8, hm, State.byteAt_of_mem hw]
  split
  · exact h _
  · exact lifts_stopped

theorem lifts_wr8 {off : Offset} {v : Byte} {f f' : State → Result}
    (h : Lifts R (f ((s.store off v).emit (.wr8 off v))) (f' ((s'.store off v).emit (.wr8 off v))))
    (hm : s'.mapped = s.mapped := by rfl) :
    Lifts R (andThen (wr8 off v s) f) (andThen (wr8 off v s') f') := by
  rw [wr8, wr8, hm]
  split
  · exact h
  · exact lifts_stopped

theorem lifts_wr32 {off : Offset} {v : Word32} {f f' : State → Result}
    (h : Lifts R (f ((s.storeWord off v).emit (.wr32 off v)))
      (f' ((s'.storeWord off v).emit (.wr32 off v)))) (hm : s'.mapped = s.mapped := by rfl) :
    Lifts R (andThen (wr32 off v s) f) (andThen (wr32 off v s') f') := by
  rw [wr32, wr32, hm]
  split
  · split
    · exact h
    · exact lifts_refused
  · exact lifts_stopped

theorem lifts_withIdx {f f' : Fin 1020 → Result}
    (h : ∀ i, i.val = s.idx.toNat → Lifts R (f i) (f' i)) (hi : s'.idx = s.idx := by rfl) :
    Lifts R (withIdx s f) (withIdx s' f') := by
  unfold withIdx
  rw [hi]
  split
  · exact h _ rfl
  · exact lifts_stopped

theorem nextIdx_related {atEnd atEnd' : State → State}
    (hend : u.idx = 1019#10 → R (atEnd u) (atEnd' u'))
    (hmore : u.idx ≠ 1019#10 → R { u with idx := u.idx + 1 } { u' with idx := u'.idx + 1 })
    (hi : u'.idx = u.idx := by rfl) : R (u.nextIdx atEnd) (u'.nextIdx atEnd') := by
  by_cases h : u.idx = 1019#10
  · rw [State.nextIdx_end _ h, State.nextIdx_end _ (hi.trans h)]
    exact hend h
  · rw [State.nextIdx_more _ h, State.nextIdx_more _ (hi ▸ h)]
    exact hmore h

/-! ## Acceptance, the arbiter and a turn -/

/-- What is asked of two states of which the acceptance of a command is to say the same. -/
structure AcceptedAlike (R : State → State → Prop) (s s' : State) : Prop where
  params : s'.params = s.params
  answer : ∀ st c data, R (s.respond st c data) (s'.respond st c data)
  get : ∀ r, R { s with sel := r, pc := .gRd } { s' with sel := r, pc := .gRd }
  set : ∀ r b, R { s with sel := r, tmp := b, pc := .sWr } { s' with sel := r, tmp := b, pc := .sWr }
  read : ∀ c, R { s with ch := c, idx := 0#10, pc := .rb } { s' with ch := c, idx := 0#10, pc := .rb }
  xfer : ∀ c stage first, first = .xData ∨ first = .xbPreRd →
    R { s with ch := c, stage := stage, idx := 0#10, pc := first }
      { s' with ch := c, stage := stage, idx := 0#10, pc := first }
  zeroPage : R { s with idx := 0#10, pc := .zp } { s' with idx := 0#10, pc := .zp }
  reset : R s.enterReset s'.enterReset
  irqSvc : R { s with owner := .irq, sub := 0#2, pc := .iqPre }
    { s' with owner := .irq, sub := 0#2, pc := .iqPre }
  attach : ∀ m q, R { s with owner := .life, mapOk := m, irqOk := q, pc := .atMap }
    { s' with owner := .life, mapOk := m, irqOk := q, pc := .atMap }
  detach : R { s with owner := .life, pc := .dtSurf } { s' with owner := .life, pc := .dtSurf }

theorem AcceptedAlike.acceptSet (h : AcceptedAlike R s s') (r : Reg) (v : Operand) :
    Lifts R (acceptSet r v s) (acceptSet r v s') := by
  unfold Machine.acceptSet
  split
  · exact lifts_next (h.answer ..)
  · exact lifts_next (h.set ..)

theorem AcceptedAlike.acceptXfer (h : AcceptedAlike R s s') (c : Channel) {first : Phase}
    (hf : first = .xData ∨ first = .xbPreRd) (len : Word32) (data : List Byte) :
    Lifts R (acceptXfer c first len data s) (acceptXfer c first len data s') := by
  unfold Machine.acceptXfer
  split
  · exact lifts_next (h.answer ..)
  · split
    · exact lifts_next (h.xfer _ _ _ hf)
    · exact lifts_refused

theorem AcceptedAlike.execGetZeropage (h : AcceptedAlike R s s') :
    Lifts R (execGetZeropage s) (execGetZeropage s') := by
  unfold Machine.execGetZeropage
  by_cases hz : s.params.hasZeropage = true
  · rw [if_pos hz, if_pos (h.params ▸ hz)]
    exact lifts_next h.zeroPage
  · rw [if_neg hz, if_neg (h.params ▸ hz)]
    exact lifts_next (h.answer ..)

theorem AcceptedAlike.execReset (h : AcceptedAlike R s s') (n : Operand) :
    Lifts R (execReset n s) (execReset n s') := by
  unfold Machine.execReset
  split
  · exact lifts_next (h.answer ..)
  · exact lifts_next h.reset

theorem AcceptedAlike.exec (h : AcceptedAlike R s s') (i : Instr) :
    Lifts R (exec i s) (exec i s') := by
  cases i with
  | getBootp | getStat | getDipsw | getFfe | getFff => exact lifts_next (h.get _)
  | setBootp | setStat | setDipsw | setFfe | setFff => exact h.acceptSet _ _
  | rdA | rdB => exact lifts_next (h.read _)
  | xferA => exact h.acceptXfer _ (.inl rfl) _ _
  | xferB => exact h.acceptXfer _ (.inr rfl) _ _
  | getBufsize => exact lifts_next (h.answer ..)
  | getZeropage => exact h.execGetZeropage
  | reset => exact h.execReset _
  | irqSvc => exact lifts_next h.irqSvc
  | attach => exact lifts_next (h.attach ..)
  | detach => exact lifts_next h.detach

theorem AcceptedAlike.acceptRequest (h : AcceptedAlike R s s') (p : Port) (r : Request) :
    Lifts R (acceptRequest p r s) (acceptRequest p r s') := by
  unfold Machine.acceptRequest
  split
  · exact lifts_next (h.answer ..)
  · exact lifts_ite (fun _ => h.exec _) (fun _ => lifts_next (h.answer ..))

/-- The arbiter, when it sees the same requests, gates and draws. -/
theorem arbitrate_lifts {pick : Option Nat} (hnone : R s s')
    (haccept : ∀ o d, Lifts R (accept { s with draws := d } o) (accept { s' with draws := d } o))
    (hc : candidates s' = candidates s := by rfl) (hd : s'.draws = s.draws := by rfl) :
    Lifts R (arbitrate pick s) (arbitrate pick s') := by
  have hs' : { s' with draws := s.draws } = s' := by rw [← hd]
  have hsame : ∀ o, Lifts R (accept s o) (accept s' o) := by
    intro o
    have h := haccept o s.draws
    rwa [hs'] at h
  unfold arbitrate
  rw [hc, hd]
  split
  · exact lifts_next hnone
  · exact hsame _
  · split
    · exact hsame _
    · exact haccept _ _

/-- A turn, when both states take the same one. -/
theorem step_lifts
    (hengine : ∀ pick rest, Lifts R (engineStep pick { s with turns := rest })
      (engineStep pick { s' with turns := rest }))
    (htarget : ∀ w q rest, R (targetStep w q { s with turns := rest })
      (targetStep w q { s' with turns := rest }))
    (hoffer : ∀ p r rest, R (offerOn p r { s with turns := rest })
      (offerOn p r { s' with turns := rest }))
    (hturns : s'.turns = s.turns := by rfl) : Lifts R (step s) (step s') := by
  have hs' : { s' with turns := s.turns } = s' := by rw [← hturns]
  unfold step takeTurn
  rw [hturns]
  split
  · have h := hengine none s.turns
    rwa [hs'] at h
  · exact hengine _ _
  · exact lifts_next (htarget _ _ _)
  · exact lifts_next (hoffer _ _ _)

end Sys2Proof.Machine
end

section
/-!
SUPPORT. The interrupt line (10_state.md R46): no step looks at it.
-/
namespace Sys2Proof.Machine

/-- The state with another value on the interrupt line. -/
def State.withLine (s : State) (b : Bool) : State := { s with irqIn := b }

/-- The two states differ in nothing but the interrupt line. -/
def SameButLine (s s' : State) : Prop := ∃ b, s' = s.withLine b

variable {s u : State}

theorem nextIter_line (u : State) (b : Bool) :
    SameButLine u.nextIter (u.withLine b).nextIter := by
  unfold State.nextIter
  rw [show (u.withLine b).iter = u.iter from rfl]
  split <;> exact ⟨b, rfl⟩

theorem finishReset_line (u : State) (b : Bool) :
    Lifts SameButLine (finishReset u) (finishReset (u.withLine b)) := by
  unfold finishReset
  rw [show (u.withLine b).owner = u.owner from rfl]
  split
  · exact lifts_next ⟨b, rfl⟩
  · exact lifts_next ⟨b, rfl⟩
  · exact lifts_stopped

theorem readLoop_line (base : Offset) (s : State) (b : Bool) :
    Lifts SameButLine (readLoop base s) (readLoop base (s.withLine b)) :=
  lifts_withIdx fun i _ => lifts_rd8 fun v =>
    lifts_next (nextIdx_related (fun _ => ⟨b, rfl⟩) fun _ => ⟨b, rfl⟩)

theorem zeroLoop_line (base : Offset) {atEnd : State → State} (s : State) (b : Bool)
    (he : ∀ u : State, atEnd (u.withLine b) = (atEnd u).withLine b) :
    Lifts SameButLine (zeroLoop base atEnd s) (zeroLoop base atEnd (s.withLine b)) :=
  lifts_withIdx fun _ _ => lifts_wr8
    (lifts_next (nextIdx_related (fun _ => ⟨b, he ((s.store _ _).emit _)⟩) fun _ => ⟨b, rfl⟩))

theorem phaseXData_line (s : State) (b : Bool) :
    Lifts SameButLine (phaseXData s) (phaseXData (s.withLine b)) :=
  lifts_withIdx fun i _ => lifts_wr8
    (lifts_next (nextIdx_related (fun _ => ⟨b, rfl⟩) fun _ => ⟨b, rfl⟩))

/-- No phase samples the line. -/
theorem phaseStep_line (s : State) (b : Bool) :
    Lifts SameButLine (phaseStep s) (phaseStep (s.withLine b)) := by
  unfold phaseStep
  rw [show (s.withLine b).pc = s.pc from rfl]
  cases s.pc with
  | idle | atUnwind | atSurf | dtSurf | dtIrq | dtMap => exact lifts_next ⟨b, rfl⟩
  | gRd | xbPreRd | xSt2 | rsStRd | iqRd => exact lifts_rd8 fun _ => lifts_next ⟨b, rfl⟩
  | sWr | xbPreWr | xBell | xNudge | rsRun | rsStWr | iqWr | atDipsw =>
    exact lifts_wr8 (lifts_next ⟨b, rfl⟩)
  | xSt1 =>
    refine lifts_rd8 fun v => lifts_next ?_
    dsimp only
    split <;> exact ⟨b, rfl⟩
  | zp => exact readLoop_line _ s b
  | rb => exact readLoop_line _ s b
  | xData => exact phaseXData_line s b
  | rsZa => exact zeroLoop_line _ s b fun _ => rfl
  | rsZb => exact zeroLoop_line _ s b fun _ => rfl
  | rsSettle =>
    exact lifts_ite (fun _ => lifts_ite (fun _ => lifts_wr8 (lifts_next ⟨b, rfl⟩)) fun _ =>
      lifts_ite (fun _ => lifts_wr32 (lifts_next ⟨b, rfl⟩)) fun _ =>
      lifts_ite (fun _ => lifts_wr32 (lifts_next (nextIter_line _ b))) fun _ => lifts_stopped)
      fun _ => lifts_stopped
  | rsStA0 => exact lifts_wr8 (finishReset_line _ b)
  | iqPre | iqPost =>
    exact lifts_ite (fun _ => lifts_rd8 fun _ => lifts_next ⟨b, rfl⟩) fun _ =>
      lifts_ite (fun _ => lifts_rd8 fun _ => lifts_next ⟨b, rfl⟩) fun _ =>
      lifts_ite (fun _ => lifts_rd8 fun _ => lifts_next ⟨b, rfl⟩) fun _ => lifts_stopped
  | atMap | atIrq =>
    exact lifts_ite (fun _ => lifts_next ⟨b, rfl⟩) fun _ => lifts_next ⟨b, rfl⟩

theorem acceptedAlike_line (s : State) (b : Bool) :
    AcceptedAlike SameButLine s (s.withLine b) where
  params := rfl
  answer _ _ _ := ⟨b, rfl⟩
  get _ := ⟨b, rfl⟩
  set _ _ := ⟨b, rfl⟩
  read _ := ⟨b, rfl⟩
  xfer _ _ _ _ := ⟨b, rfl⟩
  zeroPage := ⟨b, rfl⟩
  reset := ⟨b, rfl⟩
  irqSvc := ⟨b, rfl⟩
  attach _ _ := ⟨b, rfl⟩
  detach := ⟨b, rfl⟩

theorem accept_line (s : State) (b : Bool) (o : Offered) :
    Lifts SameButLine (accept s o) (accept (s.withLine b) o) := by
  have hsame : offeredRequest (s.withLine b) o = offeredRequest s o := by cases o <;> rfl
  have hremove : removeOffered (s.withLine b) o = (removeOffered s o).withLine b := by
    cases o <;> rfl
  unfold accept
  rw [hsame, hremove]
  split
  · exact (acceptedAlike_line _ b).acceptRequest _ _
  · exact lifts_next ⟨b, rfl⟩

theorem engineStep_line (pick : Option Nat) (s : State) (b : Bool) :
    Lifts SameButLine (engineStep pick s) (engineStep pick (s.withLine b)) :=
  lifts_ite (fun _ => arbitrate_lifts ⟨b, rfl⟩ fun o d => accept_line { s with draws := d } b o)
    fun _ => phaseStep_line s b

theorem offerOn_line (p : Port) (r : Request) (s : State) (b : Bool) :
    SameButLine (offerOn p r s) (offerOn p r (s.withLine b)) := by
  have held : ∀ (c : Bool) (u : State),
      SameButLine (if c then u else s) (if c then u.withLine b else (s.withLine b)) := by
    intro c u
    cases c <;> exact ⟨b, rfl⟩
  cases p <;> exact held _ _

end Sys2Proof.Machine

open Sys2Proof Sys2Proof.Machine

/-- Settles O45: a target step sets the line, and every other step leaves what it was. -/
theorem interruptLineIsNeverSampled : Obligations.InterruptLineIsNeverSampled := by
  intro s t b h
  have hsame : Lifts SameButLine (step s) (step (s.withLine b)) :=
    step_lifts (fun pick rest => engineStep_line pick { s with turns := rest } b)
      (fun w q rest => ⟨q, rfl⟩) (fun p r rest => offerOn_line p r { s with turns := rest } b)
  obtain ⟨t', ht, b', rfl⟩ := hsame t h
  exact ⟨b', ht⟩
end

section
/-!
SUPPORT. The working registers (10_state.md R36 to R40): what a phase still reads of them, and that two
states which agree on that, and on everything else, take the same step.
-/
namespace Sys2Proof.Machine

/-! ## The registers a command may leave stale -/

/-- The working registers of R36 to R39, and the captured answers of `ATTACH` (log entry 6). -/
structure Working where
  tmp : Byte
  idx : BitVec 10
  iter : BitVec 15
  sub : BitVec 2
  sel : Reg
  ch : Channel
  owner : Port
  stage : Vector Byte 1020
  mapOk : Bool
  irqOk : Bool

/-- The working registers of a state. -/
def State.working (s : State) : Working :=
  ⟨s.tmp, s.idx, s.iter, s.sub, s.sel, s.ch, s.owner, s.stage, s.mapOk, s.irqOk⟩

/-- The state with other working registers. -/
def State.withWorking (s : State) (w : Working) : State :=
  { s with
    tmp := w.tmp, idx := w.idx, iter := w.iter, sub := w.sub, sel := w.sel, ch := w.ch
    owner := w.owner, stage := w.stage, mapOk := w.mapOk, irqOk := w.irqOk }

/-- The first `n` bytes are the same. -/
def SamePrefix (n : Nat) (a b : Vector Byte 1020) : Prop :=
  ∀ (j : Nat) (hj : j < 1020), j < n → a[j] = b[j]

/-- What the phase of `s` and those after it may still read of the working registers is the same in `w`.
A read loop reads of `stage[]` only the bytes it has collected. -/
def LiveSame (s : State) (w : Working) : Prop :=
  match s.pc with
  | .idle => True
  | .gRd => w.owner = s.owner ∧ w.sel = s.sel
  | .sWr => w.owner = s.owner ∧ w.sel = s.sel ∧ w.tmp = s.tmp
  | .zp => w.owner = s.owner ∧ w.idx = s.idx ∧ SamePrefix s.idx.toNat w.stage s.stage
  | .rb => w.owner = s.owner ∧ w.idx = s.idx ∧ w.ch = s.ch ∧ SamePrefix s.idx.toNat w.stage s.stage
  | .xbPreRd | .xData =>
    w.owner = s.owner ∧ w.idx = s.idx ∧ w.ch = s.ch ∧ w.stage = s.stage
  | .xbPreWr =>
    w.owner = s.owner ∧ w.idx = s.idx ∧ w.ch = s.ch ∧ w.stage = s.stage ∧ w.tmp = s.tmp
  | .rsZa | .rsZb => w.owner = s.owner ∧ w.idx = s.idx
  | .rsSettle => w.owner = s.owner ∧ w.iter = s.iter ∧ w.sub = s.sub
  | .xNudge | .rsStWr | .iqWr => w.owner = s.owner ∧ w.tmp = s.tmp
  | .iqPre | .iqPost => w.owner = s.owner ∧ w.sub = s.sub
  | .atMap => w.owner = s.owner ∧ w.mapOk = s.mapOk ∧ w.irqOk = s.irqOk
  | .atIrq => w.owner = s.owner ∧ w.irqOk = s.irqOk
  | _ => w.owner = s.owner

/-- The two states differ in working registers only, and in none that is still read. -/
def Alike (s s' : State) : Prop := s' = s.withWorking s'.working ∧ LiveSame s s'.working

variable {s u : State} {w : Working}

/-! ## The collected bytes -/

theorem SamePrefix.set {n : Nat} {a b : Vector Byte 1020} (h : SamePrefix n a b) (i : Fin 1020)
    (hi : i.val = n) (v : Byte) : 
    SamePrefix (n + 1) (a.set i.val v i.isLt) (b.set i.val v i.isLt) := by
  intro j hj hjn
  rw [Vector.getElem_set, Vector.getElem_set]
  split
  · rfl
  · exact h j hj (by omega)

theorem SamePrefix.eq {a b : Vector Byte 1020} (h : SamePrefix 1020 a b) : a = b :=
  Vector.ext fun j hj => h j hj hj

/-! ## The phases with a loop or a choice inside -/

/-- What is still read, at a phase known by name. -/
theorem LiveSame.of_pc {p : Phase} (hpc : s.pc = p) (h : LiveSame { s with pc := p } w) :
    LiveSame s w := by
  subst hpc
  exact h

/-- A response shows of the working registers `owner` and its data only. -/
theorem alike_respond {u' : State} (h : u' = u.withWorking u'.working) (ho : u'.owner = u.owner)
    (st : Status) (c : Cause) {d d' : List Byte} (hd : d' = d) :
    Alike (u.respond st c d) (u'.respond st c d') := by
  refine ⟨?_, trivial⟩
  subst hd
  generalize u'.working = w at h
  subst h
  obtain ⟨tmp, idx, iter, sub, sel, ch, owner, stage, m, q⟩ := w
  cases ho
  rfl

/-- A read loop: while it goes on the collected bytes agree, and at its end all of `stage[]` does. -/
theorem readLoop_alike (base : Offset) (ho : w.owner = s.owner) (hi : w.idx = s.idx)
    (hp : s.pc = .zp ∨ s.pc = .rb ∧ w.ch = s.ch)
    (hs : SamePrefix s.idx.toNat w.stage s.stage) :
    Lifts Alike (readLoop base s) (readLoop base (s.withWorking w)) := by
  obtain ⟨tmp, idx, iter, sub, sel, ch, owner, stage, m, q⟩ := w
  cases ho
  cases hi
  refine lifts_withIdx fun i hidx => lifts_rd8 fun v => lifts_next ?_
  have hset := hs.set i hidx v
  refine nextIdx_related (fun hend => ?_) fun hmore => ?_
  · have hlast : s.idx.toNat = 1019 := by simpa using congrArg BitVec.toNat hend
    rw [hlast] at hset
    exact alike_respond rfl rfl .ok .none (congrArg Vector.toList hset.eq)
  · have hne : s.idx.toNat ≠ 1019 := fun e => hmore (BitVec.eq_of_toNat_eq (by simpa using e))
    have hlt : s.idx.toNat < 1019 := by omega
    rw [← idx_succ_toNat hlt] at hset
    refine ⟨rfl, ?_⟩
    rcases hp with hp | ⟨hp, hch⟩
    · exact .of_pc hp ⟨rfl, rfl, hset⟩
    · exact .of_pc hp ⟨rfl, rfl, hch, hset⟩

theorem phaseXData_alike (hpc : s.pc = .xData) (ho : w.owner = s.owner) (hi : w.idx = s.idx)
    (hc : w.ch = s.ch) (hs : w.stage = s.stage) :
    Lifts Alike (phaseXData s) (phaseXData (s.withWorking w)) := by
  obtain ⟨tmp, idx, iter, sub, sel, ch, owner, stage, m, q⟩ := w
  cases ho
  cases hi
  cases hc
  cases hs
  exact lifts_withIdx fun i _ => lifts_wr8 (lifts_next (nextIdx_related (fun _ => ⟨rfl, rfl⟩)
    fun _ => ⟨rfl, .of_pc hpc ⟨rfl, rfl, rfl, rfl⟩⟩))

/-- A zeroing loop, when what follows it reads nothing of the old working registers but `owner`. -/
theorem zeroLoop_alike (base : Offset) {atEnd : State → State} (hpc : s.pc = .rsZa ∨ s.pc = .rsZb)
    (ho : w.owner = s.owner) (hi : w.idx = s.idx)
    (hend : ∀ (u : State) (v : Working), v.owner = u.owner →
      Alike (atEnd u) (atEnd (u.withWorking v))) :
    Lifts Alike (zeroLoop base atEnd s) (zeroLoop base atEnd (s.withWorking w)) := by
  obtain ⟨tmp, idx, iter, sub, sel, ch, owner, stage, m, q⟩ := w
  cases ho
  cases hi
  refine lifts_withIdx fun i _ => lifts_wr8 (lifts_next (nextIdx_related (fun _ => ?_) fun _ => ?_))
  · exact hend ((s.store _ _).emit _) ⟨tmp, s.idx, iter, sub, sel, ch, s.owner, stage, m, q⟩ rfl
  · refine ⟨rfl, ?_⟩
    rcases hpc with hpc | hpc <;> exact .of_pc hpc ⟨rfl, rfl⟩

theorem nextIter_alike (hpc : s.pc = .rsSettle) (ho : w.owner = s.owner) (hi : w.iter = s.iter) :
    Alike s.nextIter (s.withWorking w).nextIter := by
  obtain ⟨tmp, idx, iter, sub, sel, ch, owner, stage, m, q⟩ := w
  cases ho
  cases hi
  unfold State.nextIter State.withWorking
  split
  · exact ⟨rfl, rfl⟩
  · exact ⟨rfl, .of_pc hpc ⟨rfl, rfl, rfl⟩⟩

theorem phaseRsSettle_alike (hpc : s.pc = .rsSettle) (ho : w.owner = s.owner)
    (hi : w.iter = s.iter) (hs : w.sub = s.sub) :
    Lifts Alike (phaseRsSettle s) (phaseRsSettle (s.withWorking w)) := by
  obtain ⟨tmp, idx, iter, sub, sel, ch, owner, stage, m, q⟩ := w
  cases ho
  cases hi
  cases hs
  exact lifts_ite (fun _ =>
      lifts_ite (fun _ => lifts_wr8 (lifts_next ⟨rfl, .of_pc hpc ⟨rfl, rfl, rfl⟩⟩)) fun _ =>
      lifts_ite (fun _ => lifts_wr32 (lifts_next ⟨rfl, .of_pc hpc ⟨rfl, rfl, rfl⟩⟩)) fun _ =>
      lifts_ite (fun _ => lifts_wr32 (lifts_next (nextIter_alike (s := (s.storeWord _ _).emit _)
        (w := ⟨tmp, idx, s.iter, s.sub, sel, ch, s.owner, stage, m, q⟩) hpc rfl rfl)))
        fun _ => lifts_stopped)
    fun _ => lifts_stopped

theorem finishReset_alike (ho : w.owner = u.owner) :
    Lifts Alike (finishReset u) (finishReset (u.withWorking w)) := by
  unfold finishReset
  rw [show (u.withWorking w).owner = u.owner from ho]
  obtain ⟨tmp, idx, iter, sub, sel, ch, owner, stage, m, q⟩ := w
  cases ho
  split
  · exact lifts_next ⟨rfl, trivial⟩
  · exact lifts_next ⟨rfl, rfl⟩
  · exact lifts_stopped

theorem phaseIqPre_alike (hpc : s.pc = .iqPre) (ho : w.owner = s.owner) (hs : w.sub = s.sub) :
    Lifts Alike (phaseIqPre s) (phaseIqPre (s.withWorking w)) := by
  obtain ⟨tmp, idx, iter, sub, sel, ch, owner, stage, m, q⟩ := w
  cases ho
  cases hs
  exact lifts_ite (fun _ => lifts_rd8 fun _ => lifts_next ⟨rfl, .of_pc hpc ⟨rfl, rfl⟩⟩) fun _ =>
    lifts_ite (fun _ => lifts_rd8 fun _ => lifts_next ⟨rfl, .of_pc hpc ⟨rfl, rfl⟩⟩) fun _ =>
    lifts_ite (fun _ => lifts_rd8 fun _ => lifts_next ⟨rfl, rfl⟩) fun _ => lifts_stopped

theorem phaseIqPost_alike (hpc : s.pc = .iqPost) (ho : w.owner = s.owner) (hs : w.sub = s.sub) :
    Lifts Alike (phaseIqPost s) (phaseIqPost (s.withWorking w)) := by
  obtain ⟨tmp, idx, iter, sub, sel, ch, owner, stage, m, q⟩ := w
  cases ho
  cases hs
  exact lifts_ite (fun _ => lifts_rd8 fun _ => lifts_next ⟨rfl, .of_pc hpc ⟨rfl, rfl⟩⟩) fun _ =>
    lifts_ite (fun _ => lifts_rd8 fun _ => lifts_next ⟨rfl, .of_pc hpc ⟨rfl, rfl⟩⟩) fun _ =>
    lifts_ite (fun _ => lifts_rd8 fun _ => lifts_next ⟨rfl, trivial⟩) fun _ => lifts_stopped

/-! ## One step -/

/-- Two states that agree on what the phase still reads take the same step of a busy engine. -/
theorem phaseStep_alike (h : LiveSame s w) :
    Lifts Alike (phaseStep s) (phaseStep (s.withWorking w)) := by
  revert h
  unfold phaseStep LiveSame
  rw [show (s.withWorking w).pc = s.pc from rfl]
  obtain ⟨tmp, idx, iter, sub, sel, ch, owner, stage, m, q⟩ := w
  cases hpc : s.pc with
  | idle => exact fun _ => lifts_next ⟨rfl, .of_pc hpc trivial⟩
  | gRd =>
    rintro ⟨⟨⟩, ⟨⟩⟩
    exact lifts_rd8 fun _ => lifts_next ⟨rfl, trivial⟩
  | sWr =>
    rintro ⟨⟨⟩, ⟨⟩, ⟨⟩⟩
    exact lifts_wr8 (lifts_next ⟨rfl, trivial⟩)
  | zp =>
    rintro ⟨ho, hi, hs⟩
    exact readLoop_alike _ ho hi (.inl hpc) hs
  | rb =>
    rintro ⟨ho, hi, ⟨⟩, hs⟩
    exact readLoop_alike _ ho hi (.inr ⟨hpc, rfl⟩) hs
  | xbPreRd =>
    rintro ⟨⟨⟩, ⟨⟩, ⟨⟩, ⟨⟩⟩
    exact lifts_rd8 fun _ => lifts_next ⟨rfl, rfl, rfl, rfl, rfl, rfl⟩
  | xbPreWr =>
    rintro ⟨⟨⟩, ⟨⟩, ⟨⟩, ⟨⟩, ⟨⟩⟩
    exact lifts_wr8 (lifts_next ⟨rfl, rfl, rfl, rfl, rfl⟩)
  | xData =>
    rintro ⟨ho, hi, hc, hs⟩
    exact phaseXData_alike hpc ho hi hc hs
  | xBell =>
    rintro ⟨⟩
    exact lifts_wr8 (lifts_next ⟨rfl, rfl⟩)
  | xSt1 =>
    rintro ⟨⟩
    refine lifts_rd8 fun v => lifts_next ?_
    dsimp only
    split
    · exact ⟨rfl, rfl⟩
    · exact ⟨rfl, trivial⟩
  | xSt2 | rsStRd | iqRd =>
    rintro ⟨⟩
    exact lifts_rd8 fun _ => lifts_next ⟨rfl, rfl, rfl⟩
  | xNudge =>
    rintro ⟨⟨⟩, ⟨⟩⟩
    exact lifts_wr8 (lifts_next ⟨rfl, trivial⟩)
  | rsZa =>
    rintro ⟨ho, hi⟩
    exact zeroLoop_alike _ (.inl hpc) ho hi fun _ _ ho => ⟨rfl, ho, rfl⟩
  | rsZb =>
    rintro ⟨ho, hi⟩
    exact zeroLoop_alike _ (.inr hpc) ho hi fun _ _ ho => ⟨rfl, ho, rfl, rfl⟩
  | rsSettle =>
    rintro ⟨ho, hi, hs⟩
    exact phaseRsSettle_alike hpc ho hi hs
  | rsRun =>
    rintro ⟨⟩
    exact lifts_wr8 (lifts_next ⟨rfl, rfl⟩)
  | rsStWr =>
    rintro ⟨⟨⟩, ⟨⟩⟩
    exact lifts_wr8 (lifts_next ⟨rfl, rfl⟩)
  | rsStA0 => exact fun ho => lifts_wr8 (finishReset_alike (u := (s.store _ _).emit _) ho)
  | iqPre =>
    rintro ⟨ho, hs⟩
    exact phaseIqPre_alike hpc ho hs
  | iqWr =>
    rintro ⟨⟨⟩, ⟨⟩⟩
    exact lifts_wr8 (lifts_next ⟨rfl, rfl, rfl⟩)
  | iqPost =>
    rintro ⟨ho, hs⟩
    exact phaseIqPost_alike hpc ho hs
  | atMap =>
    rintro ⟨⟨⟩, ⟨⟩, ⟨⟩⟩
    exact lifts_ite (fun _ => lifts_next ⟨rfl, rfl, rfl⟩) fun _ => lifts_next ⟨rfl, trivial⟩
  | atIrq =>
    rintro ⟨⟨⟩, ⟨⟩⟩
    exact lifts_ite (fun _ => lifts_next ⟨rfl, rfl⟩) fun _ => lifts_next ⟨rfl, rfl⟩
  | atUnwind | atSurf | dtMap =>
    rintro ⟨⟩
    exact lifts_next ⟨rfl, trivial⟩
  | atDipsw =>
    rintro ⟨⟩
    exact lifts_wr8 (lifts_next ⟨rfl, rfl, rfl⟩)
  | dtSurf | dtIrq =>
    rintro ⟨⟩
    exact lifts_next ⟨rfl, rfl⟩

/-- Acceptance writes what its sequence will read; of the old working registers it keeps `owner`. -/
theorem acceptedAlike_working (ho : w.owner = s.owner) :
    AcceptedAlike Alike s (s.withWorking w) := by
  obtain ⟨tmp, idx, iter, sub, sel, ch, owner, stage, m, q⟩ := w
  cases ho
  exact {
    params := rfl
    answer _ _ _ := ⟨rfl, trivial⟩
    get _ := ⟨rfl, rfl, rfl⟩
    set _ _ := ⟨rfl, rfl, rfl, rfl⟩
    read _ := ⟨rfl, rfl, rfl, rfl, fun _ _ hj => absurd hj (Nat.not_lt_zero _)⟩
    xfer _ _ _ hfirst := by
      rcases hfirst with rfl | rfl <;> exact ⟨rfl, rfl, rfl, rfl, rfl⟩
    zeroPage := ⟨rfl, rfl, rfl, fun _ _ hj => absurd hj (Nat.not_lt_zero _)⟩
    reset := ⟨rfl, rfl, rfl⟩
    irqSvc := ⟨rfl, rfl, rfl⟩
    attach _ _ := ⟨rfl, rfl, rfl, rfl⟩
    detach := ⟨rfl, rfl⟩ }

theorem accept_alike (hpc : s.pc = .idle) (o : Offered) :
    Lifts Alike (accept s o) (accept (s.withWorking w) o) := by
  have hsame : offeredRequest (s.withWorking w) o = offeredRequest s o := by cases o <;> rfl
  have htaken : { removeOffered (s.withWorking w) o with owner := offeredPort o } =
      State.withWorking { removeOffered s o with owner := offeredPort o }
        { w with owner := offeredPort o } := by cases o <;> rfl
  unfold accept
  rw [hsame, htaken]
  split
  · exact (acceptedAlike_working rfl).acceptRequest _ _
  · exact lifts_next ⟨rfl, .of_pc hpc trivial⟩

theorem engineStep_alike (pick : Option Nat) (h : LiveSame s w) :
    Lifts Alike (engineStep pick s) (engineStep pick (s.withWorking w)) :=
  lifts_ite (fun hpc => arbitrate_lifts ⟨rfl, h⟩ fun _ d =>
    accept_alike (s := { s with draws := d }) hpc _) fun _ => phaseStep_alike h

theorem offerOn_alike (p : Port) (r : Request) (h : LiveSame s w) :
    Alike (offerOn p r s) (offerOn p r (s.withWorking w)) := by
  have held : ∀ (c : Bool) (u : State), LiveSame u w →
      Alike (if c then u else s) (if c then u.withWorking w else s.withWorking w) := by
    intro c u hu
    cases c
    · exact ⟨rfl, h⟩
    · exact ⟨rfl, hu⟩
  cases p with
  | cmd => exact held s.surface { s with cmdReqs := s.cmdReqs ++ [r] } h
  | irq => exact held (s.irqBound && s.irqReq.isNone) { s with irqReq := some r } h
  | life => exact held (lifeSlotFree s && (s.busy || lifeGate s r)) { s with lifeReq := some r } h

theorem step_alike (h : LiveSame s w) : Lifts Alike (step s) (step (s.withWorking w)) :=
  step_lifts (fun pick rest => engineStep_alike pick (s := { s with turns := rest }) h)
    (fun _ _ _ => ⟨rfl, h⟩) (fun p r rest => offerOn_alike p r (s := { s with turns := rest }) h)

theorem run_alike (n : Nat) {s s' : State} (h : Alike s s') : Lifts Alike (run n s) (run n s') := by
  induction n generalizing s s' with
  | zero => exact lifts_next h
  | succ n ih =>
    intro u hu
    obtain ⟨t, ht, hrest⟩ := andThen_eq_next.1 hu
    obtain ⟨heq, hlive⟩ := h
    obtain ⟨t', ht', htt'⟩ := step_alike hlive t ht
    rw [← heq] at ht'
    rw [run_of_step ht']
    exact ih htt' u hrest

end Sys2Proof.Machine

open Sys2Proof Sys2Proof.Machine

/-- Settles O58: at `IDLE` no working register is still read, and alike states run alike. -/
theorem staleRegistersNeverShow : Obligations.StaleRegistersNeverShow := by
  intro s tmp idx iter sub sel ch owner stage m q n u hpc hrun
  have hidle : Alike s (s.withWorking ⟨tmp, idx, iter, sub, sel, ch, owner, stage, m, q⟩) :=
    ⟨rfl, .of_pc hpc trivial⟩
  obtain ⟨u', hu', heq, -⟩ := run_alike n hidle u hrun
  exact ⟨u', hu', heq⟩
end

section
/-!
SUPPORT. The bus port's 32-bit accesses (20_memory.md R63 to R66): the four bytes of a word, lowest first,
and the refusal away from a multiple of 4.
-/
namespace Sys2Proof.Machine

variable {s : State} {off : Offset}

/-! ## The bytes of a word (R65) -/

/-- A word is put together of its four bytes. -/
theorem append_bytes (v : Word32) :
    v.extractLsb' 24 8 ++ v.extractLsb' 16 8 ++ v.extractLsb' 8 8 ++ v.extractLsb' 0 8 = v := by
  have top : v.extractLsb' 24 8 ++ v.extractLsb' 16 8 = v.extractLsb' 16 16 :=
    BitVec.extractLsb'_append_extractLsb'_eq_extractLsb' rfl
  have upper : v.extractLsb' 16 16 ++ v.extractLsb' 8 8 = v.extractLsb' 8 24 :=
    BitVec.extractLsb'_append_extractLsb'_eq_extractLsb' rfl
  have whole : v.extractLsb' 8 24 ++ v.extractLsb' 0 8 = v.extractLsb' 0 32 :=
    BitVec.extractLsb'_append_extractLsb'_eq_extractLsb' rfl
  rw [top, upper, whole, BitVec.extractLsb'_eq_self]

/-- The four bytes of the word at an offset are those the window holds there. -/
theorem State.extract_wordAt (s : State) (off : Offset) :
    (s.wordAt off).extractLsb' 0 8 = s.byteAt off ∧
      (s.wordAt off).extractLsb' 8 8 = s.byteAt (off + 1) ∧
      (s.wordAt off).extractLsb' 16 8 = s.byteAt (off + 2) ∧
      (s.wordAt off).extractLsb' 24 8 = s.byteAt (off + 3) := by
  unfold State.wordAt
  refine ⟨BitVec.extractLsb'_append_eq_right, ?_, ?_, ?_⟩
  · rw [BitVec.extractLsb'_append_eq_of_le (by decide)]
    exact BitVec.extractLsb'_append_eq_right
  · rw [BitVec.extractLsb'_append_eq_of_le (by decide),
      BitVec.extractLsb'_append_eq_of_le (by decide)]
    exact BitVec.extractLsb'_append_eq_right
  · rw [BitVec.extractLsb'_append_eq_of_le (by decide),
      BitVec.extractLsb'_append_eq_of_le (by decide)]
    exact BitVec.extractLsb'_append_eq_left

/-- The offsets of the four bytes are distinct, so each holds its byte of the value (R65). -/
theorem State.bytes_storeWord (off : Offset) (v : Word32) (h : s.mem.wf) :
    (s.storeWord off v).byteAt off = v.extractLsb' 0 8 ∧
      (s.storeWord off v).byteAt (off + 1) = v.extractLsb' 8 8 ∧
      (s.storeWord off v).byteAt (off + 2) = v.extractLsb' 16 8 ∧
      (s.storeWord off v).byteAt (off + 3) = v.extractLsb' 24 8 := by
  simp [State.byteAt_storeWord _ _ _ _ h]

/-- A word read back after its store is the word stored. -/
theorem State.wordAt_storeWord (off : Offset) (v : Word32) (h : s.mem.wf) :
    (s.storeWord off v).wordAt off = v := by
  obtain ⟨h0, h1, h2, h3⟩ := State.bytes_storeWord off v h
  rw [State.wordAt, h0, h1, h2, h3, append_bytes]

@[simp] theorem State.wordAt_emit (s : State) (e : BusEvent) (off : Offset) :
    (s.emit e).wordAt off = s.wordAt off := rfl

/-- An `RD32` after a `WR32` at the same offset answers the value written. -/
theorem rd32_storeWord (v : Word32) (h : s.mapped = true) (ha : aligned32 off = true)
    (hwf : s.mem.wf) (e : BusEvent) : ∃ u, rd32 off ((s.storeWord off v).emit e) = .next (v, u) := by
  have hread := rd32_of_mapped (s := (s.storeWord off v).emit e) h ha
  rw [State.wordAt_emit, State.wordAt_storeWord off v hwf] at hread
  exact ⟨_, hread⟩

/-- A 32-bit store leaves every other byte. -/
theorem State.byteAt_storeWord_ne {a : Offset} (v : Word32) (h : s.mem.wf) (h0 : a ≠ off)
    (h1 : a ≠ off + 1) (h2 : a ≠ off + 2) (h3 : a ≠ off + 3) :
    (s.storeWord off v).byteAt a = s.byteAt a := by
  rw [State.byteAt_storeWord _ _ _ _ h, if_neg h3, if_neg h2, if_neg h1, if_neg h0]

/-! ## The refusal (R66) -/

theorem wr32_of_misaligned (v : Word32) (h : s.mapped = true) (ha : off.toNat % 4 ≠ 0) :
    wr32 off v s = .refused .busAlignment := by
  simp [wr32, aligned32, h, ha]

theorem rd32_of_misaligned (h : s.mapped = true) (ha : off.toNat % 4 ≠ 0) :
    rd32 off s = .refused .busAlignment := by
  simp [rd32, aligned32, h, ha]

end Sys2Proof.Machine

open Sys2Proof Sys2Proof.Machine

/-- Settles O7: with the window mapped both accesses go through, and a store is read back. -/
theorem byteAccessIsPlainStorage : Obligations.ByteAccessIsPlainStorage := by
  intro s off v hm hwf
  refine ⟨rd8_of_mapped off hm, _, wr8_of_mapped off v hm, rfl, ?_, fun a ha => ?_⟩
  · exact (State.byteAt_store s off off v hwf).trans (if_pos rfl)
  · exact State.byteAt_store_ne s v ha

/-- Settles O8: the bytes of a word are those of the window, and a word stored is read back. -/
theorem wordAccessIsLittleEndianAndAligned : Obligations.WordAccessIsLittleEndianAndAligned := by
  intro s off v hm hwf
  refine ⟨fun ha => ?_, fun ha => ⟨wr32_of_misaligned v hm ha, rd32_of_misaligned hm ha⟩⟩
  have haligned : aligned32 off = true := decide_eq_true ha
  refine ⟨⟨_, wr32_of_mapped v hm haligned, rfl, ?_⟩,
    _, rd32_of_mapped hm haligned, s.extract_wordAt off⟩
  obtain ⟨h0, h1, h2, h3⟩ := State.bytes_storeWord off v hwf
  exact ⟨h0, h1, h2, h3, fun a => State.byteAt_storeWord_ne v hwf,
    rd32_storeWord v hm haligned hwf _⟩
end

section
/-!
SUPPORT. The target's writes (20_memory.md R75), read byte by byte.
-/
namespace Sys2Proof.Machine

variable {p : Params} {m : Memory} {a : Offset} {w : List (Offset × Byte)}

theorem targetWritable_iff : targetWritable p a = true ↔ a ∉ p.targetReadOnly := by
  simp [targetWritable]

/-- A write of the target to another byte, or to one outside `TARGET_WRITABLE`. -/
theorem read_targetWrite_ne {c : Offset × Byte} (h : c.1 = a → a ∈ p.targetReadOnly) :
    (targetWrite p m c).read a.toNat = m.read a.toNat := by
  unfold targetWrite
  split
  · next hw =>
    have hne : a.toNat ≠ c.1.toNat := fun e => by
      have hca : c.1 = a := BitVec.eq_of_toNat_eq e.symm
      exact targetWritable_iff.1 hw (hca ▸ h hca)
    exact Memory.read_write_ne m c.2 hne
  · rfl

/-- A write of the target to a byte it may write. -/
theorem read_targetWrite_same (v : Byte) (hm : m.wf) (ha : a ∉ p.targetReadOnly) :
    (targetWrite p m (a, v)).read a.toNat = v := by
  rw [targetWrite, if_pos (targetWritable_iff.2 ha)]
  exact m.read_write_same _ v hm

/-- Writes none of which is to a writable byte `a` leave it. -/
theorem read_targetWrites_ne (h : ∀ c ∈ w, c.1 = a → a ∈ p.targetReadOnly) :
    (w.foldl (targetWrite p) m).read a.toNat = m.read a.toNat := by
  induction w generalizing m with
  | nil => rfl
  | cons c w ih =>
    obtain ⟨hc, hw⟩ := List.forall_mem_cons.1 h
    exact (ih hw).trans (read_targetWrite_ne hc)

/-- Writes that all give the writable byte `a` the value `v` leave `v` there, when one of them names
`a` or `v` was there before. -/
theorem read_targetWrites_same {v : Byte} (hm : m.wf) (ha : a ∉ p.targetReadOnly)
    (hall : ∀ v', (a, v') ∈ w → v' = v) (h : (a, v) ∈ w ∨ m.read a.toNat = v) :
    (w.foldl (targetWrite p) m).read a.toNat = v := by
  induction w generalizing m with
  | nil => exact h.resolve_left List.not_mem_nil
  | cons c w ih =>
    refine ih (targetWrites_wf p [c] hm) (fun v' hv' => hall v' (List.mem_cons_of_mem c hv')) ?_
    by_cases hc : c.1 = a
    · obtain ⟨b, v'⟩ := c
      obtain rfl : b = a := hc
      obtain rfl := hall v' List.mem_cons_self
      exact .inr (read_targetWrite_same v' hm ha)
    · rw [read_targetWrite_ne fun e => absurd e hc]
      have hhead : (a, v) ≠ c := fun e => hc (congrArg Prod.fst e).symm
      exact h.imp_left fun hin => (List.mem_cons.1 hin).resolve_left hhead

end Sys2Proof.Machine

open Sys2Proof Sys2Proof.Machine

/-- Settles O43, by induction on the target's writes. -/
theorem targetStepTouchesOnlyTheWindowAndTheLine :
    Obligations.TargetStepTouchesOnlyTheWindowAndTheLine := by
  intro s w q rest hturns
  refine ⟨_, step_target hturns, rfl, targetWrites_wf s.params w, fun a ha => ?_, fun a ha => ?_,
    fun a v hin hall hm ha => ?_⟩
  · exact read_targetWrites_ne fun _ _ _ => ha
  · exact read_targetWrites_ne fun c hc hca => absurd (hca ▸ hc) (ha c.2)
  · exact read_targetWrites_same hm ha hall (.inl hin)
end

section
/-!
SUPPORT. The data of a state (20_memory.md R78): the window and what is read from it steer no step but the
first read of the nudge, so two states that differ in data take steps that differ in data.
-/
namespace Sys2Proof.Machine

/-- The window, the registers that hold bytes, and what is seen from outside. -/
structure Data where
  mem : Memory
  tmp : Byte
  stage : Vector Byte 1020
  diag : Vector Byte 6
  trace : List BusEvent
  responses : List Response

/-- The data of a state. -/
def State.data (s : State) : Data := ⟨s.mem, s.tmp, s.stage, s.diag, s.trace, s.responses⟩

/-- The state with other data. -/
def State.withData (s : State) (d : Data) : State :=
  { s with
    mem := d.mem, tmp := d.tmp, stage := d.stage, diag := d.diag, trace := d.trace
    responses := d.responses }

/-- The events and responses of `d` have the shapes of those of `s`. -/
def SameShapes (s : State) (d : Data) : Prop :=
  d.trace.map eventShape = s.trace.map eventShape ∧
    d.responses.map responseShape = s.responses.map responseShape

/-- The two states differ in data only, and not in the shapes of events and responses. -/
def SameButData (s s' : State) : Prop := s' = s.withData s'.data ∧ SameShapes s s'.data

variable {s u : State} {d : Data}

/-! ## The shapes a step is built from -/

/-- One more event on each side, of the same kind and offset. -/
theorem SameShapes.emit {e e' : BusEvent} (h : SameShapes s d) (he : eventShape e' = eventShape e) :
    SameShapes (s.emit e) { d with trace := d.trace ++ [e'] } := by
  obtain ⟨htrace, hresp⟩ := h
  refine ⟨?_, hresp⟩
  show (d.trace ++ [e']).map eventShape = (s.trace ++ [e]).map eventShape
  rw [List.map_append, List.map_append, htrace, List.map_singleton, List.map_singleton, he]

/-- One more response on each side, with the same port, status and cause. -/
theorem sameButData_respond (h : SameShapes u d) (st : Status) (c : Cause) (data data' : List Byte) :
    SameButData (u.respond st c data) ((u.withData d).respond st c data') := by
  obtain ⟨htrace, hresp⟩ := h
  refine ⟨rfl, htrace, ?_⟩
  show (d.responses ++ _).map responseShape = (u.responses ++ _).map responseShape
  rw [List.map_append, List.map_append, hresp]
  rfl

/-- A read at the same offset, whatever the two windows answer. -/
theorem lifts_rd8_data {R : State → State → Prop} {off : Offset} {f f' : Byte × State → Result}
    (h : SameShapes s d)
    (hf : ∀ v v' u d', SameShapes u d' → Lifts R (f (v, u)) (f' (v', u.withData d'))) :
    Lifts R (andThen (rd8 off s) f) (andThen (rd8 off (s.withData d)) f') := by
  rw [rd8, rd8, show (s.withData d).mapped = s.mapped from rfl]
  split
  · exact hf _ _ (s.emit (.rd8 off _)) { d with trace := d.trace ++ [.rd8 off _] } (h.emit rfl)
  · exact lifts_stopped

/-- A write at the same offset, whatever the two values are. -/
theorem lifts_wr8_data {R : State → State → Prop} {off : Offset} {v v' : Byte}
    {f f' : State → Result} (h : SameShapes s d)
    (hf : ∀ u d', SameShapes u d' → Lifts R (f u) (f' (u.withData d'))) :
    Lifts R (andThen (wr8 off v s) f) (andThen (wr8 off v' (s.withData d)) f') := by
  rw [wr8, wr8, show (s.withData d).mapped = s.mapped from rfl]
  split
  · exact hf ((s.store off v).emit _) (((s.withData d).store off v').emit _).data
      (h.emit (e := .wr8 off v) (e' := .wr8 off v') rfl)
  · exact lifts_stopped

theorem lifts_wr32_data {R : State → State → Prop} {off : Offset} {v : Word32}
    {f f' : State → Result} (h : SameShapes s d)
    (hf : ∀ u d', SameShapes u d' → Lifts R (f u) (f' (u.withData d'))) :
    Lifts R (andThen (wr32 off v s) f) (andThen (wr32 off v (s.withData d)) f') :=
  lifts_wr32 (hf ((s.storeWord off v).emit _) (((s.withData d).storeWord off v).emit _).data
    (h.emit (e := .wr32 off v) (e' := .wr32 off v) rfl))

/-! ## The phases with a loop or a choice inside -/

theorem nextIter_data (h : SameShapes u d) : SameButData u.nextIter (u.withData d).nextIter := by
  unfold State.nextIter
  rw [show (u.withData d).iter = u.iter from rfl]
  split <;> exact ⟨rfl, h⟩

theorem finishReset_data (h : SameShapes u d) :
    Lifts SameButData (finishReset u) (finishReset (u.withData d)) := by
  unfold finishReset
  rw [show (u.withData d).owner = u.owner from rfl]
  split
  · exact lifts_next (sameButData_respond h ..)
  · exact lifts_next ⟨rfl, h⟩
  · exact lifts_stopped

/-- The bytes collected, and those answered at the end of the loop, are data. -/
theorem readLoop_data (base : Offset) (h : SameShapes s d) :
    Lifts SameButData (readLoop base s) (readLoop base (s.withData d)) :=
  lifts_withIdx fun i _ => lifts_rd8_data h fun v v' u d' hu => lifts_next (nextIdx_related
    (fun _ => sameButData_respond (u := u.putStage i v) (d := ((u.withData d').putStage i v').data)
      hu ..)
    fun _ => ⟨rfl, hu⟩)

theorem zeroLoop_data (base : Offset) {atEnd : State → State} (h : SameShapes s d)
    (he : ∀ u d', SameShapes u d' → SameButData (atEnd u) (atEnd (u.withData d'))) :
    Lifts SameButData (zeroLoop base atEnd s) (zeroLoop base atEnd (s.withData d)) :=
  lifts_withIdx fun _ _ => lifts_wr8_data h fun u d' hu =>
    lifts_next (nextIdx_related (fun _ => he u d' hu) fun _ => ⟨rfl, hu⟩)

theorem phaseXData_data (h : SameShapes s d) :
    Lifts SameButData (phaseXData s) (phaseXData (s.withData d)) :=
  lifts_withIdx fun _ _ => lifts_wr8_data h fun _ _ hu =>
    lifts_next (nextIdx_related (fun _ => ⟨rfl, hu⟩) fun _ => ⟨rfl, hu⟩)

theorem phaseRsSettle_data (h : SameShapes s d) :
    Lifts SameButData (phaseRsSettle s) (phaseRsSettle (s.withData d)) :=
  lifts_ite (fun _ =>
      lifts_ite (fun _ => lifts_wr8_data h fun _ _ hu => lifts_next ⟨rfl, hu⟩) fun _ =>
      lifts_ite (fun _ => lifts_wr32_data h fun _ _ hu => lifts_next ⟨rfl, hu⟩) fun _ =>
      lifts_ite (fun _ => lifts_wr32_data h fun _ _ hu => lifts_next (nextIter_data hu))
        fun _ => lifts_stopped)
    fun _ => lifts_stopped

/-- A line of the diagnostic record: the byte read goes into data. -/
theorem recordDiag_data (off : Offset) (k : Fin 6) {next : State → State} (h : SameShapes s d)
    (hn : ∀ u d', SameShapes u d' → SameButData (next u) (next (u.withData d'))) :
    Lifts SameButData (recordDiag off k next s) (recordDiag off k next (s.withData d)) :=
  lifts_rd8_data h fun v v' u d' hu =>
    lifts_next (hn (u.putDiag k v) ((u.withData d').putDiag k v').data hu)

theorem finishIrq_data (h : SameShapes u d) : SameButData u.finishIrq (u.withData d).finishIrq :=
  sameButData_respond (u := { u with diagValid := true }) h ..

theorem phaseIqPre_data (h : SameShapes s d) :
    Lifts SameButData (phaseIqPre s) (phaseIqPre (s.withData d)) :=
  lifts_ite (fun _ => recordDiag_data _ _ h fun _ _ hu => ⟨rfl, hu⟩) fun _ =>
  lifts_ite (fun _ => recordDiag_data _ _ h fun _ _ hu => ⟨rfl, hu⟩) fun _ =>
  lifts_ite (fun _ => recordDiag_data _ _ h fun _ _ hu => ⟨rfl, hu⟩) fun _ => lifts_stopped

theorem phaseIqPost_data (h : SameShapes s d) :
    Lifts SameButData (phaseIqPost s) (phaseIqPost (s.withData d)) :=
  lifts_ite (fun _ => recordDiag_data _ _ h fun _ _ hu => ⟨rfl, hu⟩) fun _ =>
  lifts_ite (fun _ => recordDiag_data _ _ h fun _ _ hu => ⟨rfl, hu⟩) fun _ =>
  lifts_ite (fun _ => recordDiag_data _ _ h fun _ _ hu => finishIrq_data hu) fun _ => lifts_stopped

theorem raiseResource_data (h : SameShapes u d) (c : Cause) :
    SameButData (u.raiseResource c) ((u.withData d).raiseResource c) :=
  sameButData_respond (u := { u with mapped := false, irqBound := false, surface := false }) h ..

/-- R78: no phase but `X_ST1` looks at data to go on. -/
theorem phaseStep_data (hpc : s.pc ≠ .xSt1) (h : SameShapes s d) :
    Lifts SameButData (phaseStep s) (phaseStep (s.withData d)) := by
  revert hpc
  unfold phaseStep
  rw [show (s.withData d).pc = s.pc from rfl]
  cases s.pc with
  | xSt1 => exact fun hpc => absurd rfl hpc
  | idle | dtSurf | dtIrq => exact fun _ => lifts_next ⟨rfl, h⟩
  | gRd => exact fun _ => lifts_rd8_data h fun _ _ _ _ hu => lifts_next (sameButData_respond hu ..)
  | sWr | xNudge =>
    exact fun _ => lifts_wr8_data h fun _ _ hu => lifts_next (sameButData_respond hu ..)
  | zp | rb => exact fun _ => readLoop_data _ h
  | xbPreRd | xSt2 | rsStRd | iqRd =>
    exact fun _ => lifts_rd8_data h fun _ _ _ _ hu => lifts_next ⟨rfl, hu⟩
  | xbPreWr | xBell | rsRun | rsStWr | iqWr | atDipsw =>
    exact fun _ => lifts_wr8_data h fun _ _ hu => lifts_next ⟨rfl, hu⟩
  | xData => exact fun _ => phaseXData_data h
  | rsZa | rsZb => exact fun _ => zeroLoop_data _ h fun _ _ hu => ⟨rfl, hu⟩
  | rsSettle => exact fun _ => phaseRsSettle_data h
  | rsStA0 => exact fun _ => lifts_wr8_data h fun _ _ hu => finishReset_data hu
  | iqPre => exact fun _ => phaseIqPre_data h
  | iqPost => exact fun _ => phaseIqPost_data h
  | atMap =>
    exact fun _ => lifts_ite (fun _ => lifts_next ⟨rfl, h⟩) fun _ =>
      lifts_next (raiseResource_data h _)
  | atIrq => exact fun _ => lifts_ite (fun _ => lifts_next ⟨rfl, h⟩) fun _ => lifts_next ⟨rfl, h⟩
  | atUnwind =>
    exact fun _ => lifts_next (raiseResource_data (u := { s with mapped := false }) h _)
  | atSurf => exact fun _ => lifts_next (sameButData_respond (u := { s with surface := true }) h ..)
  | dtMap => exact fun _ => lifts_next (sameButData_respond (u := { s with mapped := false }) h ..)

/-! ## One step -/

theorem acceptedAlike_data (h : SameShapes s d) : AcceptedAlike SameButData s (s.withData d) where
  params := rfl
  answer _ _ _ := sameButData_respond h ..
  get _ := ⟨rfl, h⟩
  set _ _ := ⟨rfl, h⟩
  read _ := ⟨rfl, h⟩
  xfer _ _ _ _ := ⟨rfl, h⟩
  zeroPage := ⟨rfl, h⟩
  reset := ⟨rfl, h⟩
  irqSvc := ⟨rfl, h⟩
  attach _ _ := ⟨rfl, h⟩
  detach := ⟨rfl, h⟩

theorem removeOffered_data (h : SameShapes s d) (o : Offered) :
    SameShapes { removeOffered s o with owner := offeredPort o } d := by
  cases o <;> exact h

theorem accept_data (h : SameShapes s d) (o : Offered) :
    Lifts SameButData (accept s o) (accept (s.withData d) o) := by
  have hsame : offeredRequest (s.withData d) o = offeredRequest s o := by cases o <;> rfl
  have htaken : { removeOffered (s.withData d) o with owner := offeredPort o } =
      State.withData { removeOffered s o with owner := offeredPort o } d := by cases o <;> rfl
  unfold accept
  rw [hsame, htaken]
  split
  · exact (acceptedAlike_data (removeOffered_data h o)).acceptRequest _ _
  · exact lifts_next ⟨rfl, h⟩

theorem engineStep_data (pick : Option Nat) (hpc : s.pc ≠ .xSt1) (h : SameShapes s d) :
    Lifts SameButData (engineStep pick s) (engineStep pick (s.withData d)) :=
  lifts_ite
    (fun _ => arbitrate_lifts ⟨rfl, h⟩ fun o k => accept_data (s := { s with draws := k }) h o)
    fun _ => phaseStep_data hpc h

theorem offerOn_data (p : Port) (r : Request) (h : SameShapes s d) :
    SameButData (offerOn p r s) (offerOn p r (s.withData d)) := by
  have held : ∀ (c : Bool) (u : State), SameShapes u d →
      SameButData (if c then u else s) (if c then u.withData d else s.withData d) := by
    intro c u hu
    cases c
    · exact ⟨rfl, h⟩
    · exact ⟨rfl, hu⟩
  cases p with
  | cmd => exact held s.surface { s with cmdReqs := s.cmdReqs ++ [r] } h
  | irq => exact held (s.irqBound && s.irqReq.isNone) { s with irqReq := some r } h
  | life => exact held (lifeSlotFree s && (s.busy || lifeGate s r)) { s with lifeReq := some r } h

/-- R78: at every phase but `X_ST1` the data decide nothing the step does next. -/
theorem step_data (hpc : s.pc ≠ .xSt1) (h : SameShapes s d) :
    Lifts SameButData (step s) (step (s.withData d)) :=
  step_lifts (fun pick rest => engineStep_data pick (s := { s with turns := rest }) hpc h)
    (fun _ _ _ => ⟨rfl, h⟩) (fun p r rest => offerOn_data p r (s := { s with turns := rest }) h)

end Sys2Proof.Machine

open Sys2Proof Sys2Proof.Machine

/-- Settles O46: another window is other data, and a step elsewhere than at `X_ST1` carries it into data
only. -/
theorem windowSteersOnlyTheNudge : Obligations.WindowSteersOnlyTheNudge := by
  intro s t m hpc h
  obtain ⟨t', ht', hdata, hshapes⟩ := step_data (d := { s.data with mem := m }) hpc ⟨rfl, rfl⟩ t h
  exact ⟨t', ht', hdata, hshapes⟩
end

section
/-!
SUPPORT. The command word against the opcode table (30_encoding.md R91 to R94, R106): the fields a row's
mask keeps, which opcodes select a command, and the decoder on the words the encoder writes.
-/
namespace Sys2Proof.Machine

/-! ## A row of the table (R94) -/

theorem opcField_and_rowMask (w : CmdWord) : opcField (w &&& rowMask) = opcField w := by
  have hmask : rowMask.extractLsb' 40 8 = BitVec.allOnes 8 := by decide
  rw [opcField, BitVec.extractLsb'_and, hmask, BitVec.and_allOnes, opcField]

theorem rsvField_and_rowMask (w : CmdWord) : rsvField (w &&& rowMask) = rsvField w := by
  have hmask : rowMask.extractLsb' 33 7 = BitVec.allOnes 7 := by decide
  rw [rsvField, BitVec.extractLsb'_and, hmask, BitVec.and_allOnes, rsvField]

/-- R91: a word with no reserved bit set is made of its other three fields. -/
theorem cw48_fields_eq {w : CmdWord} (h : rsvField w = 0#7) :
    cw48 (opcField w) (npField w) (argField w) = w := by
  have hnp : BitVec.ofBool (npField w) = w.extractLsb' 32 1 := by
    ext k hk
    simp [npField, Nat.lt_one_iff.1 hk]
  calc cw48 (opcField w) (npField w) (argField w)
      = opcField w ++ rsvField w ++ BitVec.ofBool (npField w) ++ argField w := by rw [cw48, h]
    _ = w.extractLsb' 0 48 := by
      rw [hnp, opcField, rsvField, argField,
        BitVec.extractLsb'_append_extractLsb'_eq_extractLsb' (start₁ := 33) (len₁ := 7) rfl,
        BitVec.extractLsb'_append_extractLsb'_eq_extractLsb' (start₁ := 32) (len₁ := 1) rfl,
        BitVec.extractLsb'_append_extractLsb'_eq_extractLsb' (start₁ := 0) (len₁ := 32) rfl]
    _ = w := BitVec.extractLsb'_eq_self

/-- A word matches the row of an opcode exactly when it has that opcode and no reserved bit set. -/
theorem matches_row_iff {w : CmdWord} {o : BitVec 8} :
    w &&& rowMask = o.setWidth 48 <<< 40 ↔ rsvField w = 0#7 ∧ opcField w = o := by
  have hrow : cw48 o false 0#32 &&& rowMask = o.setWidth 48 <<< 40 :=
    Laws.EncodesRow.masked_cw48 o false 0#32
  constructor
  · intro h
    rw [← hrow] at h
    rw [← rsvField_and_rowMask, ← opcField_and_rowMask, h, rsvField_and_rowMask,
      opcField_and_rowMask]
    exact ⟨rsvField_cw48 .., opcField_cw48 ..⟩
  · rintro ⟨hrsv, rfl⟩
    rw [← cw48_fields_eq hrsv, opcField_cw48]
    exact Laws.EncodesRow.masked_cw48 ..

/-! ## The opcode map (R93) -/

theorem opc_mem_allOpcodes (i : Instr) : i.opc ∈ allOpcodes := by
  cases i <;> simp [Instr.opc, allOpcodes]

/-- R93: the opcode map answers a command for the twenty opcodes and for no other. -/
theorem decodeOpc_ok_iff {o : BitVec 8} {np : Bool} {arg : Word32} {p : List Byte} :
    (∃ i, decodeOpc o np arg p = .ok i) ↔ o ∈ allOpcodes := by
  constructor
  · rintro ⟨i, h⟩
    exact (decodeOpc_ok h).1 ▸ opc_mem_allOpcodes i
  · intro h
    fin_cases h <;> exact ⟨_, rfl⟩

/-- A word is a command exactly when no reserved bit is set and its opcode is one of the twenty. -/
theorem decode_ok_iff {w : CmdWord} {p : List Byte} :
    (∃ i, decode w p = .ok i) ↔ rsvField w = 0#7 ∧ opcField w ∈ allOpcodes := by
  by_cases h : rsvField w = 0#7 <;> simp [decode, h, decodeOpc_ok_iff]

/-- R106: an opcode without operand selects one command, whatever the other fields hold. -/
theorem decodeOpc_operandFree {o : BitVec 8} (h : o ∈ operandFree) :
    ∃ i, ∀ np arg p, decodeOpc o np arg p = .ok i := by
  fin_cases h <;> exact ⟨_, fun _ _ _ => rfl⟩

/-! ## The words of the encoder -/

/-- R92, R103: a transfer is read from its word and the first `ARG` bytes that follow, whatever `NP` is. -/
theorem decode_cw48_xfer (c : Channel) (np : Bool) (len : Word32) (p : List Byte) :
    decode (cw48 (xferCommand c len []).opc np len) p = .ok (xferCommand c len (p.take len.toNat)) := by
  cases c <;> exact decode_cw48 ..

/-- A transfer with the payload its length tells is read back. -/
theorem decode_encode_xfer (c : Channel) {len : Word32} {data : List Byte}
    (h : data.length = len.toNat) :
    decode (cw48 (xferCommand c len []).opc false len) data = .ok (xferCommand c len data) := by
  rw [decode_cw48_xfer, List.take_of_length_le h.le]

/-- The word of a whole transfer on channel A (T30). -/
theorem decode_xferA_full {data : List Byte} (h : data.length = 1020) :
    decode 0x3000000003FC#48 data = .ok (.xferA 1020#32 data) := by
  have hword : cw48 0x30#8 false 1020#32 = 0x3000000003FC#48 := by decide
  exact hword ▸ decode_encode_xfer .a (len := 1020#32) h

/-- R106: the two answers of `ATTACH` are bits 0 and 1 of `ARG`. -/
theorem decode_cw48_attach (np : Bool) (arg : Word32) (p : List Byte) :
    decode (cw48 0x70#8 np arg) p = .ok (.attach (arg.getLsbD 0) (arg.getLsbD 1)) :=
  decode_cw48 ..

end Sys2Proof.Machine

open Sys2Proof Sys2Proof.Machine

/-- Settles O1: each row of the table reads back the word the encoder writes for it; a transfer takes its
whole payload because it has the length the word tells. -/
theorem decodeOfEncodeIsTheCommand : Obligations.DecodeOfEncodeIsTheCommand := by
  intro i hwf
  cases i with
  | setBootp v => exact decode_encodeWord_setCommand .bootp v _
  | setStat v => exact decode_encodeWord_setCommand .stat v _
  | setDipsw v => exact decode_encodeWord_setCommand .dipsw v _
  | setFfe v => exact decode_encodeWord_setCommand .ffe v _
  | setFff v => exact decode_encodeWord_setCommand .fff v _
  | reset v => exact decode_encodeWord_reset v _
  | xferA len data => exact decode_encode_xfer .a (of_decide_eq_true hwf)
  | xferB len data => exact decode_encode_xfer .b (of_decide_eq_true hwf)
  | attach m q => cases m <;> cases q <;> exact decode_cw48_attach ..
  | _ => exact decode_cw48 ..

/-- Settles O2: under the mask a word is its `OPC` and `RSV` fields, and the opcode map answers for the
twenty opcodes. -/
theorem decodeSelectsTheMatchingRow : Obligations.DecodeSelectsTheMatchingRow := by
  intro w p
  refine ⟨?_, fun i h => ?_⟩
  · simp [decode_ok_iff, matches_row_iff, and_comm]
  · obtain ⟨hrsv, hopc, -⟩ := decode_ok h
    exact matches_row_iff.2 ⟨hrsv, hopc⟩

/-- Settles O3: an opcode without operand selects one command before the other fields are read. -/
theorem unusedFieldsAreIgnored : Obligations.UnusedFieldsAreIgnored := by
  refine ⟨fun o ho np arg p => ?_, decode_cw48_attach⟩
  obtain ⟨i, hi⟩ := decodeOpc_operandFree ho
  simp [decode_cw48, hi]

/-- Settles O4: a transfer's length is the `ARG` of its word; the other commands have no payload. -/
theorem wordTellsCommandLength : Obligations.WordTellsCommandLength := by
  intro i hwf
  cases i with
  | xferA len data | xferB len data =>
    have hlen : data.length = len.toNat := of_decide_eq_true hwf
    simp [encode, encodeWord, encodePayload, commandLength, opcField_cw48, argField_cw48,
      Instr.opc, hlen]
  | _ => exact commandLength_encodeWord (by simp [Instr.opc]) (by simp [Instr.opc])

/-- Settles O5: the transfer is read back at any 1020 bytes; the other words are evaluated. -/
theorem wordsOfTheSpecDecode : Obligations.WordsOfTheSpecDecode :=
  ⟨rfl, rfl, rfl, rfl, decode_xferA_full List.length_replicate, rfl, rfl, rfl, rfl, rfl⟩
end

section
/-!
SUPPORT. Acceptance (30_encoding.md R101 to R105, 60_exceptions.md R208): what the engine's turn does with
the one request it may accept, when that request is rejected, and what acceptance leaves alone.
-/
namespace Sys2Proof.Machine

variable {s t : State}

/-! ## Accepting the only candidate (R208) -/

/-- With one acceptable request the step takes it off its port and accepts it (log entry 27). -/
theorem step_of_only_candidate {o : Offered} {r : Request} (hq : s.Quiet) (hpc : s.pc = .idle)
    (hc : candidates s = [o]) (hr : offeredRequest s o = some r) :
    step s = acceptRequest (offeredPort o) r (takeOff s o s.draws) := by
  rw [step_idle hq hpc, arbitrate, hc]
  simp [accept, hr, takeOff]

/-- `raise Invalid` at `IDLE` is a response and nothing else (R201). -/
theorem raiseInvalid_takeOff (o : Offered) (hpc : s.pc = .idle) (c : Cause) :
    (takeOff s o s.draws).raiseInvalid c = { removeOffered s o with
      owner := offeredPort o
      responses := s.responses ++ [⟨offeredPort o, .einval, c, []⟩] } := by
  cases o <;> simp [State.raiseInvalid, State.respond, takeOff, removeOffered, hpc]

/-! ## The illegal words (R105) -/

theorem acceptRequest_of_no_command {p : Port} {r : Request}
    (h : ¬ ∃ i, decode r.word r.payload = .ok i) :
    acceptRequest p r s = .next (s.raiseInvalid .illegal) := by
  cases hd : decode r.word r.payload with
  | ok i => exact absurd ⟨i, hd⟩ h
  | error e => simp [acceptRequest, hd]

theorem acceptRequest_of_wrong_port {p : Port} {r : Request} {i : Instr}
    (hd : decode r.word r.payload = .ok i) (hp : i.port ≠ p) :
    acceptRequest p r s = .next (s.raiseInvalid .illegal) := by
  simp [acceptRequest, hd, hp]

theorem eq_getZeropage_of_opc {i : Instr} (h : i.opc = 0x41#8) : i = .getZeropage := by
  cases i with
  | getZeropage => rfl
  | _ => simp [Instr.opc] at h

/-- R134: without the capability the opcode 0x41 is illegal, on every port and with any other field. -/
theorem acceptRequest_of_no_zeropage {p : Port} {r : Request} (ho : opcField r.word = 0x41#8)
    (hz : s.params.hasZeropage = false) :
    acceptRequest p r s = .next (s.raiseInvalid .illegal) := by
  by_cases hd : ∃ i, decode r.word r.payload = .ok i
  · obtain ⟨i, hi⟩ := hd
    obtain rfl := eq_getZeropage_of_opc ((decode_ok hi).2.1.symm.trans ho)
    simp [acceptRequest, hi, exec, execGetZeropage, hz]
  · exact acceptRequest_of_no_command hd

/-! ## The operands (R101 to R103) -/

/-- A rejection, as the statements write it. -/
theorem raiseInvalid_eq_answered (s : State) (c : Cause) :
    s.raiseInvalid c = s.answered s.owner .einval c [] := rfl

theorem exec_setCommand (r : Reg) (v : Operand) (s : State) :
    exec (setCommand r v) s = acceptSet r v s := by
  cases r <;> rfl

theorem exec_xferCommand_of_badLength (c : Channel) {len : Word32} (h : len.toNat ≠ 1020)
    (data : List Byte) (s : State) :
    exec (xferCommand c len data) s = .next (s.raiseInvalid .badLength) := by
  cases c <;> simp [xferCommand, exec, execXferA, execXferB, acceptXfer, lengthOperand, h]

/-! ## What acceptance leaves alone (R104) -/

/-- From `s` to `t` nothing changes but the working registers and the responses. -/
def AcceptanceFrame (s t : State) : Prop :=
  t = { s with
    pc := t.pc, tmp := t.tmp, idx := t.idx, sub := t.sub, sel := t.sel, ch := t.ch
    owner := t.owner, stage := t.stage, mapOk := t.mapOk, irqOk := t.irqOk
    responses := t.responses }

/-- Each way acceptance can end is inside the frame. -/
theorem acceptedAlike_frame (s : State) : AcceptedAlike (fun _ t => AcceptanceFrame s t) s s where
  params := rfl
  answer _ _ _ := rfl
  get _ := rfl
  set _ _ := rfl
  read _ := rfl
  xfer _ _ _ _ := rfl
  zeroPage := rfl
  reset := rfl
  irqSvc := rfl
  attach _ _ := rfl
  detach := rfl

theorem exec_frame {i : Instr} (h : exec i s = .next t) : AcceptanceFrame s t := by
  obtain ⟨t', ht', hframe⟩ := (acceptedAlike_frame s).exec i t h
  cases h.symm.trans ht'
  exact hframe

end Sys2Proof.Machine

open Sys2Proof Sys2Proof.Machine

/-- Settles O10: on three of the grounds the decoder or the port rejects the word; on the fourth, if they
do not, the command is `GET_ZEROPAGE` and finds no capability. -/
theorem illegalWordIsRejected : Obligations.IllegalWordIsRejected := by
  intro s o r hq hpc hc hr hground
  have hrejected : acceptRequest (offeredPort o) r (takeOff s o s.draws) =
      .next ((takeOff s o s.draws).raiseInvalid .illegal) := by
    rcases hground with hrsv | hopc | ⟨i, hd, hport⟩ | ⟨hopc, hz⟩
    · exact acceptRequest_of_no_command fun hok => hrsv (decode_ok_iff.1 hok).1
    · exact acceptRequest_of_no_command fun hok => hopc (decode_ok_iff.1 hok).2
    · exact acceptRequest_of_wrong_port hd hport
    · exact acceptRequest_of_no_zeropage hopc (by cases o <;> exact hz)
  rw [step_of_only_candidate hq hpc hc hr, hrejected, raiseInvalid_takeOff o hpc]

/-- Settles O11: the five commands are one acceptance with their register. -/
theorem byteOperandIsValidated : Obligations.ByteOperandIsValidated := by
  intro r s
  simp only [exec_setCommand, ← raiseInvalid_eq_answered]
  refine ⟨rfl, fun arg => ⟨fun h => ?_, fun h => ?_⟩⟩
  · simp [acceptSet, byteOperand, h]
  · simp [acceptSet, byteOperand, Nat.not_lt.2 h]

/-- Settles O12: the check of the operand answers, and 1 passes it. -/
theorem resetOperandIsValidated : Obligations.ResetOperandIsValidated := by
  refine fun s => ⟨rfl, fun arg h => ?_, rfl⟩
  rw [← raiseInvalid_eq_answered]
  simp [exec, execReset, resetOperand, h]

/-- Settles O13: the length is checked first, and the decoder takes it as it stands. -/
theorem wrongLengthTransferIsRejected : Obligations.WrongLengthTransferIsRejected :=
  ⟨fun c _ data s h => exec_xferCommand_of_badLength c h data s, decode_cw48_xfer⟩

/-- Settles O14: the frame holds of each way acceptance can end. -/
theorem acceptanceTouchesOnlyWorkingRegisters : Obligations.AcceptanceTouchesOnlyWorkingRegisters :=
  fun _ _ _ => exec_frame
end

section
/-!
SUPPORT. Responses along a step (30_encoding.md R96, 60_exceptions.md R201): none and a busy engine stays
busy, or one that ends the command.
-/
namespace Sys2Proof.Machine

variable {s t u : State}

/-- From `s` to `t` no response is given and a busy engine stays busy, or one is given, to the port in
`owner`, with the engine at `IDLE`; a busy engine does not answer `EINVAL`. -/
def AnswersAtMostOnce (s t : State) : Prop :=
  (t.responses = s.responses ∧ (s.pc ≠ .idle → t.pc ≠ .idle)) ∨
    ∃ r, t.responses = s.responses ++ [r] ∧ t.pc = .idle ∧ r.port = t.owner ∧
      (s.pc ≠ .idle → r.status ≠ .einval)

/-- A state that answers where `u` stood, which had the responses of `s`. -/
theorem answersAtMostOnce_respond {st : Status} (c : Cause) (data : List Byte)
    (hst : s.pc ≠ .idle → st ≠ .einval) (hu : u.responses = s.responses := by rfl) :
    AnswersAtMostOnce s (u.respond st c data) :=
  .inr ⟨⟨u.owner, st, c, data⟩, by rw [State.respond_responses, hu], rfl, rfl, hst⟩

/-- A state that does not answer and is not at `IDLE`. -/
theorem answersAtMostOnce_busy (hpc : t.pc ≠ .idle)
    (ht : t.responses = s.responses := by rfl) : AnswersAtMostOnce s t :=
  .inl ⟨ht, fun _ => hpc⟩

theorem Follows.ne_idle {p p' : Phase} (h : Follows p p') : p' ≠ .idle := by
  cases h <;> decide

/-- An advance answers where its command ends, with `OK`, `HANDLED` or `ERES`. -/
theorem Advance.answersAtMostOnce (hpc : s.pc ≠ .idle) (h : Advance s t) :
    AnswersAtMostOnce s t := by
  cases h with
  | follow _ hp => exact answersAtMostOnce_busy hp.ne_idle
  | count | settle | settleCount | record => exact answersAtMostOnce_busy hpc
  | answer | readEnd | resetAnswer | irqEnd | mapFail | unwind | openSurface | unmap =>
    exact answersAtMostOnce_respond _ _ fun _ => by decide
  | _ => exact answersAtMostOnce_busy nofun

theorem BusAccess.pc (h : BusAccess s u) : u.pc = s.pc := by
  cases h <;> rfl

/-- An access gives no response and leaves the phase, so what follows it answers for the step. -/
theorem BusyStep.answersAtMostOnce (hpc : s.pc ≠ .idle) (h : BusyStep s t) :
    AnswersAtMostOnce s t := by
  obtain ⟨u, ha, -, hadv⟩ := h
  have hu := hadv.answersAtMostOnce (ha.pc ▸ hpc)
  rwa [AnswersAtMostOnce, ha.pc, ha.responses] at hu

theorem takeOff_responses (s : State) (o : Offered) (d : Nat) :
    (takeOff s o d).responses = s.responses := by
  cases o <;> rfl

/-- Acceptance answers at once or begins a sequence. -/
theorem Accepted.answersAtMostOnce (hpc : s.pc = .idle) (hu : u.responses = s.responses)
    (h : Accepted u t) : AnswersAtMostOnce s t := by
  cases h with
  | answered => exact answersAtMostOnce_respond _ _ (absurd hpc) hu
  | _ => exact .inl ⟨hu, absurd hpc⟩

theorem engineStep_answersAtMostOnce {pick : Option Nat} (h : engineStep pick s = .next t) :
    AnswersAtMostOnce s t := by
  rcases engineStep_cases h with ⟨hpc, rfl | ⟨o, d, ha⟩⟩ | ⟨hpc, hbusy⟩
  · exact .inl ⟨rfl, id⟩
  · exact ha.answersAtMostOnce hpc (takeOff_responses s o d)
  · exact hbusy.answersAtMostOnce hpc

/-- An offer gives no response and leaves the phase. -/
theorem offerOn_answersAtMostOnce (p : Port) (r : Request) (s : State) :
    AnswersAtMostOnce s (offerOn p r s) := by
  rcases offerOn_cases p r s with h | ⟨-, -, h⟩ | ⟨-, -, h⟩ | ⟨-, h⟩ <;> rw [h] <;>
    exact .inl ⟨rfl, id⟩

end Sys2Proof.Machine

open Sys2Proof Sys2Proof.Machine

/-- Settles O56: an engine step by its advance or its acceptance; a target step and an offer give no
response and leave the phase. -/
theorem exactlyOneResponseEndsACommand : Obligations.ExactlyOneResponseEndsACommand := by
  intro s t h
  rcases step_agent h with ⟨pick, rest, -, he⟩ | ⟨w, q, rest, -, rfl⟩ | ⟨p, r, rest, -, rfl⟩
  · exact engineStep_answersAtMostOnce (s := { s with turns := rest }) he
  · exact .inl ⟨rfl, id⟩
  · exact offerOn_answersAtMostOnce p r { s with turns := rest }
end

section
/-!
SUPPORT. Single registers (40_register_access.md R120 to R135): a `GET_x` and a `SET_x` run to their
ends, each as one explicit state.
-/
namespace Sys2Proof.Machine

variable {s : State}

/-! ## Acceptance (R121 to R131) -/

theorem exec_getCommand (r : Reg) (s : State) : exec (getCommand r) s = acceptGet r s := by
  cases r <;> rfl

theorem exec_setCommand_of_byte (r : Reg) {arg : Word32} (h : arg.toNat ≤ 255) (s : State) :
    exec (setCommand r (.number arg)) s =
      .next { s with sel := r, tmp := arg.setWidth 8, pc := .sWr } :=
  ((byteOperandIsValidated r s).2 arg).2 h

/-- R101: both grounds for which a `SET_x` is rejected. -/
theorem exec_setCommand_of_no_byte (r : Reg) {v : Operand}
    (h : v = .notParsed ∨ ∃ arg, v = .number arg ∧ 255 < arg.toNat) (s : State) :
    ∃ c, exec (setCommand r v) s = .next (s.raiseInvalid c) := by
  obtain ⟨hnone, hnumber⟩ := byteOperandIsValidated r s
  rcases h with rfl | ⟨arg, rfl, hbig⟩
  · exact ⟨_, hnone⟩
  · exact ⟨_, (hnumber arg).1 hbig⟩

/-! ## The one step (R120, R126) -/

theorem step_gRd (hq : s.Quiet) (hm : s.mapped = true) (hpc : s.pc = .gRd) :
    step s = .next ((s.emit (.rd8 s.sel.offset (s.byteAt s.sel.offset))).respond .ok .none
      [s.byteAt s.sel.offset]) := by
  rw [step_busy hq (by simp [hpc]), phaseStep, hpc]
  exact phaseGRd_of_mapped hm

theorem step_sWr (hq : s.Quiet) (hm : s.mapped = true) (hpc : s.pc = .sWr) :
    step s = .next (((s.store s.sel.offset s.tmp).emit (.wr8 s.sel.offset s.tmp)).respond
      .ok .none []) := by
  rw [step_busy hq (by simp [hpc]), phaseStep, hpc]
  exact phaseSWr_of_mapped hm

/-! ## The whole command -/

/-- The state a `GET_x` ends in (R120). -/
def State.afterGet (s : State) (r : Reg) : State :=
  ({ s with sel := r }.emit (.rd8 r.offset (s.byteAt r.offset))).respond .ok .none
    [s.byteAt r.offset]

/-- The state an accepted `SET_x` of the byte `b` ends in (R126). -/
def State.afterSet (s : State) (r : Reg) (b : Byte) : State :=
  (({ s with sel := r, tmp := b }.store r.offset b).emit (.wr8 r.offset b)).respond .ok .none []

theorem run_get (r : Reg) (hq : s.Quiet) (hm : s.mapped = true) :
    run 1 { s with sel := r, pc := .gRd } = .next (s.afterGet r) :=
  (run_one _).trans (step_gRd hq hm rfl)

theorem run_set (r : Reg) (b : Byte) (hq : s.Quiet) (hm : s.mapped = true) :
    run 1 { s with sel := r, tmp := b, pc := .sWr } = .next (s.afterSet r b) :=
  (run_one _).trans (step_sWr hq hm rfl)

theorem runCommand_get (r : Reg) (hq : s.Quiet) (hm : s.mapped = true) :
    runCommand 1 (getCommand r) s = .next (s.afterGet r) := by
  rw [runCommand, exec_getCommand]
  exact run_get r hq hm

theorem runCommand_set (r : Reg) {arg : Word32} (h : arg.toNat ≤ 255) (hq : s.Quiet)
    (hm : s.mapped = true) :
    runCommand 1 (setCommand r (.number arg)) s = .next (s.afterSet r (arg.setWidth 8)) := by
  rw [runCommand, exec_setCommand_of_byte r h]
  exact run_set r _ hq hm

theorem State.byteAt_afterSet_same (r : Reg) (b : Byte) (h : s.mem.wf) :
    (s.afterSet r b).byteAt r.offset = b :=
  (State.byteAt_store { s with sel := r, tmp := b } r.offset r.offset b h).trans (if_pos rfl)

theorem State.byteAt_afterSet_ne {r : Reg} (b : Byte) {a : Offset} (h : a ≠ r.offset) :
    (s.afterSet r b).byteAt a = s.byteAt a :=
  State.byteAt_store_ne { s with sel := r, tmp := b } b h

end Sys2Proof.Machine

open Sys2Proof Sys2Proof.Machine

/-- Settles O20: acceptance, then the step at `S_WR`; its store holds at the register and nowhere
else. -/
theorem setWritesItsRegister : Obligations.SetWritesItsRegister := by
  intro r arg s hq hm hwf harg
  exact ⟨_, _, exec_setCommand_of_byte r harg s, run_set r _ hq hm, rfl,
    State.byteAt_afterSet_same r _ hwf, fun _ => State.byteAt_afterSet_ne _⟩

/-- Settles O21: the `GET_x` reads the window as the `SET_x` left it: with the value in the register
after an accepted one, untouched after a rejected one. -/
theorem getReturnsWhatSetStored : Obligations.GetReturnsWhatSetStored := by
  refine fun r v s hq hm hwf => ⟨?_, fun hrejected => ?_⟩
  · rintro arg rfl harg
    refine ⟨_, _, runCommand_set r harg hq hm,
      runCommand_get (s := s.afterSet r (arg.setWidth 8)) r hq hm, ?_⟩
    rw [State.afterGet, State.byteAt_afterSet_same r _ hwf]
    simp [State.afterSet]
  · obtain ⟨c, hc⟩ := exec_setCommand_of_no_byte r hrejected s
    refine ⟨c, s.raiseInvalid c, _, ?_, runCommand_get (s := s.raiseInvalid c) r hq hm, ?_⟩
    · rw [runCommand, hc, andThen_next, run_zero]
    · simp [State.afterGet, State.raiseInvalid]

/-- Settles O19: acceptance sets `sel`, and the step at `G_RD` reads. -/
theorem getReadsItsRegister : Obligations.GetReadsItsRegister :=
  fun r s hq hm => ⟨exec_getCommand r s, run_get r hq hm⟩

/-- Settles O22: the two bytes of `bufSizeData` make 1020, and acceptance answers them. -/
theorem bufferSizeIsConstant : Obligations.BufferSizeIsConstant :=
  fun _ => ⟨0xFC#8, 0x03#8, by decide, rfl⟩
end

section
/-!
SUPPORT. The read loop of R133 and R150: the state after any number of its reads in closed form, and
the whole loop as one run. It is stated for any base, so that it serves `ZP` and `RB`.
-/
namespace Sys2Proof.Machine

variable {s : State} {base : Offset} {n : Nat}

/-! ## Runs given by their states -/

/-- A run along a sequence of states each of which steps to the next. -/
theorem run_of_steps {f : Nat → State} (h : ∀ k < n, step (f k) = .next (f (k + 1))) :
    run n (f 0) = .next (f n) := by
  induction n with
  | zero => rfl
  | succ n ih =>
    rw [run_add, ih fun k hk => h k (hk.trans n.lt_succ_self), andThen_next, run_one,
      h n n.lt_succ_self]

/-! ## The bytes read so far -/

/-- The first `n` bytes of the window from `base` on; `State.block` is the first 1020. -/
def State.bytesFrom (s : State) (base : Offset) (n : Nat) : List Byte :=
  (List.range n).map fun i => s.byteAt (blockOffset base i)

/-- `stage` with the first `n` bytes read from `base` on. -/
def State.stageRead (s : State) (base : Offset) (n : Nat) : Vector Byte 1020 :=
  Vector.ofFn fun i => if i.val < n then s.byteAt (blockOffset base i.val) else s.stage.get i

theorem State.bytesFrom_succ (s : State) (base : Offset) (n : Nat) :
    s.bytesFrom base (n + 1) = s.bytesFrom base n ++ [s.byteAt (blockOffset base n)] := by
  simp [State.bytesFrom, List.range_succ]

theorem readEvents_bytesFrom_succ (s : State) (base : Offset) (n : Nat) :
    readEvents base (s.bytesFrom base (n + 1)) = readEvents base (s.bytesFrom base n) ++
      [.rd8 (blockOffset base n) (s.byteAt (blockOffset base n))] := by
  rw [State.bytesFrom_succ, readEvents, List.mapIdx_concat]
  simp [readEvents, State.bytesFrom]

theorem State.stageRead_zero (s : State) (base : Offset) : s.stageRead base 0 = s.stage := by
  ext i hi
  simp [State.stageRead, Vector.get]

theorem State.stageRead_succ (s : State) (base : Offset) (hn : n < 1020) :
    (s.stageRead base n).set n (s.byteAt (blockOffset base n)) hn = s.stageRead base (n + 1) := by
  ext i hi
  by_cases hin : n = i
  · simp [State.stageRead, hin]
  · have : i < n ↔ i < n + 1 := by omega
    simp [State.stageRead, Vector.getElem_set_ne _ _ hin, this]

theorem State.stageRead_toList (s : State) (base : Offset) :
    (s.stageRead base 1020).toList = s.block base := by
  refine List.ext_getElem (by simp [State.block]) fun i hi _ => ?_
  simp [State.stageRead, State.block]

/-! ## The loop -/

/-- The state before read `n` of the loop at `base` that began at `s`. -/
def State.readTo (s : State) (base : Offset) (n : Nat) : State :=
  { s with
    idx := BitVec.ofNat 10 n
    stage := s.stageRead base n
    trace := s.trace ++ readEvents base (s.bytesFrom base n) }

/-- The state the loop at `base` that began at `s` ends in: the 1020 bytes read and answered. -/
def State.readDone (s : State) (base : Offset) : State :=
  { s.readTo base 1020 with idx := 1019#10 }.respond .ok .none (s.block base)

theorem State.readTo_zero (s : State) (base : Offset) :
    s.readTo base 0 = { s with idx := 0#10 } := by
  simp [State.readTo, State.stageRead_zero, State.bytesFrom, readEvents]

theorem State.idx_readTo (hn : n < 1020) : (s.readTo base n).idx.toNat = n :=
  Nat.mod_eq_of_lt (hn.trans (by decide))

theorem State.idxOffset_readTo (hn : n < 1020) :
    (s.readTo base n).idxOffset base = blockOffset base n := by
  have hwidth : (BitVec.ofNat 10 n).setWidth 12 = BitVec.ofNat 12 n := by
    apply BitVec.eq_of_toNat_eq
    simp only [BitVec.toNat_setWidth, BitVec.toNat_ofNat]
    omega
  exact congrArg (base + ·) hwidth

/-- The access of read `n` and its byte in `stage`: all of the next state but `idx`. -/
theorem State.readTo_access (hn : n < 1020) :
    ((s.readTo base n).emit (.rd8 (blockOffset base n) (s.byteAt (blockOffset base n)))).putStage
        ⟨n, hn⟩ (s.byteAt (blockOffset base n)) =
      { s.readTo base (n + 1) with idx := BitVec.ofNat 10 n } := by
  simp only [State.readTo, State.emit, State.putStage, State.stageRead_succ s base hn,
    readEvents_bytesFrom_succ, List.append_assoc]

theorem readLoop_readTo (hm : s.mapped = true) (hn : n < 1020) :
    readLoop base (s.readTo base n) =
      .next ({ s.readTo base (n + 1) with idx := BitVec.ofNat 10 n }.nextIdx
        fun t => t.respond .ok .none t.stage.toList) := by
  have hidx := State.idx_readTo (s := s) (base := base) hn
  rw [readLoop_of_mapped base (s := s.readTo base n) hm (hidx.symm ▸ hn),
    ← State.readTo_access hn, State.idxOffset_readTo hn]
  simp only [hidx]
  rfl

theorem readLoop_more (hm : s.mapped = true) (hn : n < 1019) :
    readLoop base (s.readTo base n) = .next (s.readTo base (n + 1)) := by
  have hmore : BitVec.ofNat 10 n ≠ 1019#10 := by
    intro h
    have := congrArg BitVec.toNat h
    simp at this
    omega
  rw [readLoop_readTo hm (hn.trans (by decide)), State.nextIdx_more _ hmore]
  simp [State.readTo, BitVec.ofNat_add]

theorem readLoop_last (hm : s.mapped = true) :
    readLoop base (s.readTo base 1019) = .next (s.readDone base) := by
  rw [readLoop_readTo hm (by decide), State.nextIdx_end _ rfl, State.readDone,
    ← State.stageRead_toList]
  rfl

/-- A phase that is the read loop at `base` reads the 1020 bytes and answers them, in 1020 steps. -/
theorem run_readLoop (hq : s.Quiet) (hm : s.mapped = true) (hpc : s.pc ≠ .idle)
    (hloop : ∀ n, phaseStep (s.readTo base n) = readLoop base (s.readTo base n)) :
    run 1020 { s with idx := 0#10 } = .next (s.readDone base) := by
  have hstep n : step (s.readTo base n) = readLoop base (s.readTo base n) :=
    (step_busy (s := s.readTo base n) hq hpc).trans (hloop n)
  have hmost : run 1019 (s.readTo base 0) = .next (s.readTo base 1019) :=
    run_of_steps (f := s.readTo base) fun n hn => (hstep n).trans (readLoop_more hm hn)
  rw [← State.readTo_zero, run_add 1019 1, hmost, andThen_next, run_one, hstep, readLoop_last hm]

end Sys2Proof.Machine

open Sys2Proof Sys2Proof.Machine

/-- Settles O23: `ZP` is the read loop at offset 0; without the capability acceptance rejects. -/
theorem zeroPageDumpsTheFirst1020Bytes : Obligations.ZeroPageDumpsTheFirst1020Bytes := by
  refine fun s => ⟨fun hq hm hcap => ?_, fun hcap => ?_⟩
  · have hrun := run_readLoop (s := { s with pc := .zp }) (base := 0x000#12) hq hm nofun
      fun _ => rfl
    exact ⟨_, by simp [exec, execGetZeropage, hcap], hrun,
      State.stageRead_toList { s with pc := .zp } _, rfl⟩
  · rw [← raiseInvalid_eq_answered]
    simp [exec, execGetZeropage, hcap]
end

section
/-!
SUPPORT. The write loop of R145: the memory after a block of bytes is written in ascending order, the step
at `X_DATA` as one explicit next state, and the whole loop as one run.
-/
namespace Sys2Proof.Machine

variable {s : State} {m : Memory} {base : Offset} {data : List Byte} {n : Nat}

/-! ## The offsets of a block -/

theorem State.idxOffset_eq_blockOffset (s : State) (base : Offset) :
    s.idxOffset base = blockOffset base s.idx.toNat :=
  congrArg (base + ·) (BitVec.ofNat_toNat ..).symm

theorem blockOffset_inj {i j : Nat} (hi : i < 4096) (hj : j < 4096) :
    blockOffset base i = blockOffset base j ↔ i = j := by
  rw [blockOffset, blockOffset, BitVec.add_right_inj, ← BitVec.toNat_inj]
  simp [Nat.mod_eq_of_lt, hi, hj]

theorem inBuffer_blockOffset (c : Channel) {i : Nat} (hi : i < 1020) :
    inBuffer c (blockOffset c.base i) := by
  cases c <;>
    simp only [inBuffer, blockOffset, Channel.base, Config.offBufA, Config.offBufB, Config.bufSize,
      BitVec.toNat_add, BitVec.toNat_ofNat] <;> omega

theorem not_inBuffer_fff (c : Channel) : ¬ inBuffer c Config.offFff := by
  cases c <;> simp [inBuffer, Channel.base, Config.offBufA, Config.offBufB, Config.offFff,
    Config.bufSize]

theorem not_inBuffer_stat (c : Channel) : ¬ inBuffer c Config.offStat := by
  cases c <;> simp [inBuffer, Channel.base, Config.offBufA, Config.offBufB, Config.offStat]

/-! ## A block of bytes in the memory -/

/-- `data` written to the offsets from `base` on, ascending, as `writeEvents` says it. -/
def Memory.writeBlock (m : Memory) (base : Offset) (data : List Byte) : Memory :=
  data.zipIdx.foldl (fun m p => m.write (blockOffset base p.2).toNat p.1) m

theorem Memory.writeBlock_concat (m : Memory) (base : Offset) (data : List Byte) (v : Byte) :
    m.writeBlock base (data ++ [v]) =
      (m.writeBlock base data).write (blockOffset base data.length).toNat v := by
  simp [Memory.writeBlock, List.zipIdx_append]

theorem writeEvents_concat (base : Offset) (data : List Byte) (v : Byte) :
    writeEvents base (data ++ [v]) =
      writeEvents base data ++ [.wr8 (blockOffset base data.length) v] :=
  List.mapIdx_concat

theorem Memory.wf_writeBlock (h : m.wf) : (m.writeBlock base data).wf := by
  induction data using List.reverseRecOn with
  | nil => exact h
  | append_singleton data v ih =>
    rw [Memory.writeBlock_concat]
    exact Memory.wf_write_offset _ v ih

/-- The offsets outside the block keep their bytes. -/
theorem Memory.read_writeBlock_ne {a : Offset} (h : ∀ i < data.length, a ≠ blockOffset base i) :
    (m.writeBlock base data).read a.toNat = m.read a.toNat := by
  induction data using List.reverseRecOn with
  | nil => rfl
  | append_singleton data v ih =>
    rw [List.length_append, List.length_singleton] at h
    have hne : a.toNat ≠ (blockOffset base data.length).toNat := fun e =>
      h _ (Nat.lt_succ_self _) (BitVec.eq_of_toNat_eq e)
    rw [Memory.writeBlock_concat, Memory.read_write_ne _ _ hne]
    exact ih fun i hi => h i (Nat.lt_succ_of_lt hi)

/-- The offsets of the block hold its bytes. -/
theorem Memory.read_writeBlock (h : m.wf) (hlen : data.length ≤ 4096) {i : Nat}
    (hi : i < data.length) :
    (m.writeBlock base data).read (blockOffset base i).toNat = data[i] := by
  induction data using List.reverseRecOn with
  | nil => cases hi
  | append_singleton data v ih =>
    rw [List.length_append, List.length_singleton] at hlen hi
    rw [Memory.writeBlock_concat]
    rcases Nat.lt_succ_iff_lt_or_eq.1 hi with hlt | rfl
    · have hne : (blockOffset base i).toNat ≠ (blockOffset base data.length).toNat := fun e =>
        hlt.ne ((blockOffset_inj (by omega) (by omega)).1 (BitVec.eq_of_toNat_eq e))
      rw [Memory.read_write_ne _ _ hne, ih (by omega) hlt, List.getElem_append_left hlt]
    · rw [Memory.read_write_same _ _ _ (Memory.wf_writeBlock h), List.getElem_concat_length rfl]

/-! ## The step at `X_DATA` -/

/-- R145 with the index in its range: one byte of `stage` is written, and the loop goes on or ends. -/
theorem phaseXData_eq (hm : s.mapped = true) (hpc : s.pc = .xData) (hi : s.idx.toNat < 1020) :
    phaseXData s = .next { s with
      mem := s.mem.write (blockOffset s.ch.base s.idx.toNat).toNat (s.stage.get ⟨s.idx.toNat, hi⟩)
      idx := if s.idx = 1019#10 then s.idx else s.idx + 1
      pc := if s.idx = 1019#10 then .xBell else .xData
      trace := s.trace ++
        [.wr8 (blockOffset s.ch.base s.idx.toNat) (s.stage.get ⟨s.idx.toNat, hi⟩)] } := by
  rw [phaseXData_of_mapped hm hi, State.idxOffset_eq_blockOffset]
  refine congrArg Host.Outcome.next ?_
  by_cases hend : s.idx = 1019#10
  · rw [if_pos hend, if_pos hend]
    exact State.nextIdx_end _ hend
  · rw [if_neg hend, if_neg hend, ← hpc]
    exact State.nextIdx_more _ hend

theorem phaseStep_xData (hpc : s.pc = .xData) : phaseStep s = phaseXData s := by
  rw [phaseStep, hpc]

/-! ## The loop -/

/-- The state before write `n` of the loop at `X_DATA` that began at `s`. -/
def State.writtenTo (s : State) (n : Nat) : State :=
  { s with
    mem := s.mem.writeBlock s.ch.base (s.stage.toList.take n)
    idx := BitVec.ofNat 10 n
    trace := s.trace ++ writeEvents s.ch.base (s.stage.toList.take n) }

theorem State.idx_writtenTo (hn : n < 1020) : (s.writtenTo n).idx.toNat = n :=
  Nat.mod_eq_of_lt (hn.trans (by decide))

theorem State.writtenTo_zero (h : s.idx = 0#10) : s.writtenTo 0 = s := by
  simp [State.writtenTo, Memory.writeBlock, writeEvents, ← h]

/-- The access of write `n`: all of the next state but `idx`. -/
theorem State.writtenTo_succ (s : State) (hn : n < 1020) :
    s.writtenTo (n + 1) = { s with
      mem := (s.writtenTo n).mem.write (blockOffset s.ch.base n).toNat (s.stage.get ⟨n, hn⟩)
      idx := BitVec.ofNat 10 (n + 1)
      trace := (s.writtenTo n).trace ++
        [.wr8 (blockOffset s.ch.base n) (s.stage.get ⟨n, hn⟩)] } := by
  have hlen : n < s.stage.toList.length := by simpa using hn
  have hget : s.stage.toList[n] = s.stage.get ⟨n, hn⟩ := Vector.getElem_toList hlen
  have htake : s.stage.toList.take (n + 1) = s.stage.toList.take n ++ [s.stage.get ⟨n, hn⟩] := by
    rw [List.take_succ_eq_append_getElem hlen, hget]
  have htaken : (s.stage.toList.take n).length = n := List.length_take_of_le hlen.le
  simp only [State.writtenTo, htake, Memory.writeBlock_concat, writeEvents_concat, htaken,
    List.append_assoc]

theorem phaseXData_writtenTo (hm : s.mapped = true) (hpc : s.pc = .xData) (hn : n < 1020) :
    phaseXData (s.writtenTo n) = .next { s.writtenTo (n + 1) with
      idx := if n = 1019 then 1019#10 else BitVec.ofNat 10 (n + 1)
      pc := if n = 1019 then .xBell else .xData } := by
  have hidx := State.idx_writtenTo (s := s) hn
  have hend : (s.writtenTo n).idx = 1019#10 ↔ n = 1019 := by
    rw [← BitVec.toNat_inj, hidx]
    rfl
  have hnext : (if n = 1019 then (s.writtenTo n).idx else (s.writtenTo n).idx + 1) =
      if n = 1019 then 1019#10 else BitVec.ofNat 10 (n + 1) := by
    split
    · exact hend.2 ‹_›
    · exact (BitVec.ofNat_add n 1).symm
  rw [phaseXData_eq (s := s.writtenTo n) hm hpc (hidx.symm ▸ hn), State.writtenTo_succ s hn]
  simp only [hend, hidx, hnext]
  rfl

/-- The state the loop that began at `s` ends in: `stage` is in the buffer, and the doorbell is next. -/
def State.dataWritten (s : State) : State :=
  { s with
    mem := s.mem.writeBlock s.ch.base s.stage.toList
    idx := 1019#10
    pc := .xBell
    trace := s.trace ++ writeEvents s.ch.base s.stage.toList }

/-- The 1020 steps at `X_DATA`. -/
theorem run_xData (hq : s.Quiet) (hm : s.mapped = true) (hpc : s.pc = .xData) (hidx : s.idx = 0#10) :
    run 1020 s = .next s.dataWritten := by
  have hstep n : step (s.writtenTo n) = phaseXData (s.writtenTo n) :=
    (step_busy (s := s.writtenTo n) hq (hpc ▸ nofun)).trans (phaseStep_xData hpc)
  have hmost : run 1019 (s.writtenTo 0) = .next (s.writtenTo 1019) :=
    run_of_steps (f := s.writtenTo) fun n hn => by
      rw [hstep, phaseXData_writtenTo hm hpc (hn.trans (by decide)), if_neg hn.ne, if_neg hn.ne,
        ← hpc]
      rfl
  rw [State.writtenTo_zero hidx] at hmost
  have hall : s.stage.toList.take 1020 = s.stage.toList := List.take_of_length_le (by simp)
  rw [run_add 1019 1, hmost, andThen_next, run_one, hstep,
    phaseXData_writtenTo hm hpc (by decide), State.writtenTo, hall]
  rfl

end Sys2Proof.Machine

open Sys2Proof Sys2Proof.Machine

/-- Settles O25: the step writes one byte, and a read after a write finds it. -/
theorem dataStepWritesOneStagedByte : Obligations.DataStepWritesOneStagedByte :=
  fun _ hi hm hwf hpc => ⟨_, (phaseStep_xData hpc).trans (phaseXData_eq hm hpc hi), rfl,
    Memory.read_write_same _ _ _ hwf,
    fun _ ha => Memory.read_write_ne _ _ fun e => ha (BitVec.eq_of_toNat_eq e)⟩
end

section
/-!
SUPPORT. The end of a transfer (41_buffer_transfer.md R146, R147): the doorbell, the test of `stat` and the
nudge, step by step, and as one run under a quiescent target, where the nudge leaves `stat` as it is.
-/
namespace Sys2Proof.Machine

variable {s : State}

/-! ## The steps -/

/-- `stat` read into `tmp`, and `pc` at `p`: the read half of each read-modify-write. -/
def State.readStatTo (s : State) (p : Phase) : State :=
  { s with
    tmp := s.byteAt Config.offStat
    pc := p
    trace := s.trace ++ [.rd8 Config.offStat (s.byteAt Config.offStat)] }

@[simp] theorem State.byteAt_readStatTo (s : State) (p : Phase) (a : Offset) :
    (s.readStatTo p).byteAt a = s.byteAt a := rfl

/-- The doorbell is rung (R146). -/
def State.rung (s : State) : State :=
  ((s.store Config.offFff Config.doorbellVal).emit (.wr8 Config.offFff Config.doorbellVal)).goto
    .xSt1

/-- `tmp` with bit 2 set is written to `stat`, and the transfer is answered (R147). -/
def State.nudged (s : State) : State :=
  ((s.store Config.offStat (nudgeValue s.tmp)).emit
    (.wr8 Config.offStat (nudgeValue s.tmp))).respond .ok .none []

theorem phaseStep_xBell (hm : s.mapped = true) (hpc : s.pc = .xBell) :
    phaseStep s = .next s.rung := by
  rw [phaseStep, hpc]
  exact phaseXBell_of_mapped hm

/-- R147, the condition: bit 2 of the first read sends the engine on to the second. -/
theorem phaseStep_xSt1_of_set (hm : s.mapped = true) (hpc : s.pc = .xSt1)
    (h : (s.byteAt Config.offStat).getLsbD 2 = true) :
    phaseStep s = .next (s.readStatTo .xSt2) := by
  rw [phaseStep, hpc]
  exact (readStat_of_mapped _ hm).trans (congrArg Host.Outcome.next (if_pos h))

theorem phaseStep_xSt1_of_clear (hm : s.mapped = true) (hpc : s.pc = .xSt1)
    (h : (s.byteAt Config.offStat).getLsbD 2 = false) :
    phaseStep s = .next ((s.readStatTo .xSt1).respond .ok .none []) := by
  rw [phaseStep, hpc]
  exact (readStat_of_mapped _ hm).trans
    (congrArg Host.Outcome.next (if_neg (Bool.eq_false_iff.1 h)))

theorem phaseStep_xSt2 (hm : s.mapped = true) (hpc : s.pc = .xSt2) :
    phaseStep s = .next (s.readStatTo .xNudge) := by
  rw [phaseStep, hpc]
  exact readStat_of_mapped _ hm

theorem phaseStep_xNudge (hm : s.mapped = true) (hpc : s.pc = .xNudge) :
    phaseStep s = .next s.nudged := by
  rw [phaseStep, hpc]
  exact phaseXNudge_of_mapped hm

/-! ## Turns that are named -/

/-- A busy engine's turn is its phase's step. -/
theorem step_engine_busy {k : Nat} {rest : List Turn} (h : s.turns = .engine k :: rest)
    (hb : s.pc ≠ .idle) : step s = phaseStep { s with turns := rest } :=
  (step_engine h).trans (engineStep_busy (s := { s with turns := rest }) hb)

/-- R147, the value: the second read with bit 2 set is written back, on the engine's next two turns. -/
theorem run_nudge_turns {k l : Nat} {rest : List Turn} (hm : s.mapped = true) (hwf : s.mem.wf)
    (hpc : s.pc = .xSt2) (h : s.turns = .engine k :: .engine l :: rest) :
    ∃ u, run 2 s = .next u ∧ u.pc = .idle ∧
      u.trace = s.trace ++ [.rd8 Config.offStat (s.byteAt Config.offStat),
        .wr8 Config.offStat (nudgeValue (s.byteAt Config.offStat))] ∧
      u.byteAt Config.offStat = nudgeValue (s.byteAt Config.offStat) := by
  have hst2 : step s = .next ({ s with turns := .engine l :: rest }.readStatTo .xNudge) :=
    (step_engine_busy h (hpc ▸ nofun)).trans (phaseStep_xSt2 hm hpc)
  have hnudge : step ({ s with turns := .engine l :: rest }.readStatTo .xNudge) =
      .next { s.readStatTo .xNudge with turns := rest }.nudged :=
    (step_engine_busy rfl (by decide : Phase.xNudge ≠ .idle)).trans (phaseStep_xNudge hm rfl)
  exact ⟨_, (run_of_step hst2).trans ((run_one _).trans hnudge), rfl, List.append_assoc ..,
    Memory.read_write_same _ _ _ hwf⟩

/-! ## The end of a transfer under a quiescent target -/

/-- Storing the byte an offset holds changes nothing: the memory is canonical. -/
theorem State.store_byteAt (off : Offset) (hwf : s.mem.wf) : s.store off (s.byteAt off) = s := by
  have hmem : s.mem.write off.toNat (s.byteAt off) = s.mem :=
    Memory.ext_of_wf (Memory.wf_write_offset off _ hwf) hwf fun a => by
      rw [Memory.read_write _ _ _ _ hwf]
      split
      · next h => rw [h, State.byteAt]
      · rfl
  rw [State.store, hmem]

theorem nudgeValue_of_set {v : Byte} (h : v.getLsbD 2 = true) : nudgeValue v = v := by
  refine BitVec.eq_of_getLsbD_eq fun i hi => ?_
  have hbit : Config.statBit2.getLsbD i = true → i = 2 := by
    revert i
    decide
  rw [nudgeValue, BitVec.getLsbD_or, Bool.or_eq_left_iff_imp]
  exact fun hb => hbit hb ▸ h

/-- Right after a read of `stat` with bit 2 set, the nudge leaves the window as it is. -/
theorem State.nudged_of_set (hwf : s.mem.wf) (htmp : s.tmp = s.byteAt Config.offStat)
    (h : (s.byteAt Config.offStat).getLsbD 2 = true) :
    s.nudged = (s.emit (.wr8 Config.offStat (nudgeValue s.tmp))).respond .ok .none [] := by
  rw [State.nudged, htmp, nudgeValue_of_set h, State.store_byteAt _ hwf]

theorem nudgeSteps_of_clear {v : Byte} (h : v.getLsbD 2 = false) : nudgeSteps v = 0 :=
  if_neg (Bool.eq_false_iff.1 h)

theorem nudgeSteps_of_set {v : Byte} (h : v.getLsbD 2 = true) : nudgeSteps v = 2 :=
  if_pos h

theorem tailEvents_of_clear {v : Byte} (h : v.getLsbD 2 = false) :
    tailEvents v = [.wr8 Config.offFff Config.doorbellVal] ++ [.rd8 Config.offStat v] :=
  congrArg (_ ++ ·) (if_neg (Bool.eq_false_iff.1 h))

theorem tailEvents_of_set {v : Byte} (h : v.getLsbD 2 = true) :
    tailEvents v = [.wr8 Config.offFff Config.doorbellVal] ++ ([.rd8 Config.offStat v] ++
      ([.rd8 Config.offStat v] ++ [.wr8 Config.offStat (nudgeValue v)])) :=
  congrArg (_ ++ ·) (if_pos h)

/-- The state a transfer at `X_BELL` ends in: whatever `stat` holds, only the doorbell is stored. -/
def State.finishedFromBell (s : State) : State :=
  { s with
    mem := s.mem.write Config.offFff.toNat Config.doorbellVal
    tmp := s.byteAt Config.offStat
    pc := .idle
    trace := s.trace ++ tailEvents (s.byteAt Config.offStat)
    responses := s.responses ++ [⟨s.owner, .ok, .none, []⟩] }

theorem State.byteAt_rung_stat (s : State) :
    s.rung.byteAt Config.offStat = s.byteAt Config.offStat :=
  State.byteAt_store_ne s _ (by decide)

/-- Without the nudge. -/
theorem State.rung_finished_of_clear (h : (s.byteAt Config.offStat).getLsbD 2 = false) :
    (s.rung.readStatTo .xSt1).respond .ok .none [] = s.finishedFromBell := by
  rw [State.readStatTo, State.byteAt_rung_stat, State.finishedFromBell, tailEvents_of_clear h,
    ← List.append_assoc]
  rfl

/-- With the nudge: it writes back what it read. -/
theorem State.rung_finished_of_set (hwf : s.mem.wf) (h : (s.byteAt Config.offStat).getLsbD 2 = true) :
    ((s.rung.readStatTo .xSt2).readStatTo .xNudge).nudged = s.finishedFromBell := by
  have hset : (s.rung.byteAt Config.offStat).getLsbD 2 = true := s.byteAt_rung_stat ▸ h
  rw [State.nudged_of_set (s := (s.rung.readStatTo .xSt2).readStatTo .xNudge)
      (State.wf_store _ _ _ hwf) rfl hset, State.readStatTo,
    State.byteAt_readStatTo, State.readStatTo, State.byteAt_rung_stat, State.finishedFromBell,
    tailEvents_of_set h, ← List.append_assoc, ← List.append_assoc, ← List.append_assoc]
  rfl

theorem run_xBell (hq : s.Quiet) (hm : s.mapped = true) (hwf : s.mem.wf) (hpc : s.pc = .xBell) :
    run (nudgeSteps (s.byteAt Config.offStat) + 2) s = .next s.finishedFromBell := by
  have hbell : step s = .next s.rung :=
    (step_busy hq (hpc ▸ nofun)).trans (phaseStep_xBell hm hpc)
  have hst1 : step s.rung = phaseStep s.rung := step_busy (s := s.rung) hq nofun
  rw [run_of_step hbell]
  cases h : (s.byteAt Config.offStat).getLsbD 2 with
  | false =>
    rw [phaseStep_xSt1_of_clear (s := s.rung) hm rfl (s.byteAt_rung_stat ▸ h)] at hst1
    rw [nudgeSteps_of_clear h, ← State.rung_finished_of_clear h, ← hst1]
    exact run_one _
  | true =>
    rw [phaseStep_xSt1_of_set (s := s.rung) hm rfl (s.byteAt_rung_stat ▸ h)] at hst1
    have hst2 := (step_busy (s := s.rung.readStatTo .xSt2) hq nofun).trans (phaseStep_xSt2 hm rfl)
    have hnudge := (step_busy (s := (s.rung.readStatTo .xSt2).readStatTo .xNudge) hq nofun).trans
      (phaseStep_xNudge hm rfl)
    rw [nudgeSteps_of_set h, ← State.rung_finished_of_set hwf h, run_of_step hst1,
      run_of_step hst2, run_one, hnudge]

end Sys2Proof.Machine

open Sys2Proof Sys2Proof.Machine

/-- Settles O29: one read or one write of `stat` at each of the three phases. -/
theorem nudgeSteps : Obligations.NudgeSteps := by
  refine fun s hm hwf => ⟨phaseStep_xSt1_of_set hm, phaseStep_xSt1_of_clear hm, phaseStep_xSt2 hm,
    fun hpc => ⟨_, phaseStep_xNudge hm hpc, rfl, ?_, fun a ha => ?_⟩⟩
  · exact Memory.read_write_same _ _ _ hwf
  · exact State.byteAt_store_ne s _ ha

/-- Settles O30: the engine's step, the target's, and two more of the engine; the second read finds what
the target wrote. -/
theorem nudgeConditionFirstReadValueSecondRead :
    Obligations.NudgeConditionFirstReadValueSecondRead := by
  intro s v q j k l rest hm hwf hpc hset hwritable hturns
  have hst1 := (step_engine_busy hturns (hpc ▸ nofun)).trans (phaseStep_xSt1_of_set hm hpc hset)
  let t := targetStep [(0x001#12, v)] q
    { s.readStatTo .xSt2 with turns := .engine k :: .engine l :: rest }
  have htarget : step { s.readStatTo .xSt2 with
      turns := .target [(0x001#12, v)] q :: .engine k :: .engine l :: rest } = .next t :=
    step_target rfl
  have hread : t.byteAt Config.offStat = v := read_targetWrite_same v hwf hwritable
  obtain ⟨u, hrun, hidle, htrace, hbyte⟩ := run_nudge_turns (s := t) hm
    (targetWrites_wf s.params [(0x001#12, v)] hwf) rfl rfl
  refine ⟨u, (run_of_step hst1).trans ((run_of_step htarget).trans hrun), hidle, ?_,
    hbyte.trans (congrArg nudgeValue hread)⟩
  rw [htrace, hread]
  exact List.append_assoc ..
end

section
/-!
SUPPORT. A whole transfer (41_buffer_transfer.md R141 to R147) under a quiescent target: the capture at
acceptance, the pre-clear of channel B, and the run from `X_DATA` to the answer, each as one explicit state.
-/
namespace Sys2Proof.Machine

variable {s : State} {data : List Byte}

/-! ## Acceptance (R143) -/

/-- The phase a transfer begins at: channel B has the pre-clear (R141, R142). -/
def xferFirstPhase : Channel → Phase
  | .a => .xData
  | .b => .xbPreRd

/-- The state a transfer of the captured bytes begins in. -/
def State.captured (s : State) (c : Channel) (data : Vector Byte 1020) : State :=
  { s with ch := c, stage := data, idx := 0#10, pc := xferFirstPhase c }

/-- R143: a payload of 1020 bytes is captured whole. -/
theorem exec_xferCommand (c : Channel) (h : data.length = 1020) :
    ∃ bytes : Vector Byte 1020, bytes.toList = data ∧
      ∀ s, exec (xferCommand c 1020#32 data) s = .next (s.captured c bytes) := by
  have hsize : data.toArray.size = 1020 := h
  refine ⟨⟨data.toArray, hsize⟩, rfl, fun s => ?_⟩
  have hlen : lengthOperand 1020#32 = none := rfl
  cases c <;>
    simp [xferCommand, exec, execXferA, execXferB, acceptXfer, hlen, h, State.captured,
      xferFirstPhase]

/-! ## The pre-clear of channel B (R144) -/

/-- `stat` read, masked and written back, and the loop next. -/
def State.preCleared (s : State) : State :=
  (((s.readStatTo .xbPreWr).store Config.offStat (preClearValue (s.byteAt Config.offStat))).emit
    (.wr8 Config.offStat (preClearValue (s.byteAt Config.offStat)))).goto .xData

theorem phaseStep_xbPreRd (hm : s.mapped = true) (hpc : s.pc = .xbPreRd) :
    phaseStep s = .next (s.readStatTo .xbPreWr) := by
  rw [phaseStep, hpc]
  exact readStat_of_mapped _ hm

theorem run_preClear (hq : s.Quiet) (hm : s.mapped = true) (hpc : s.pc = .xbPreRd) :
    run 2 s = .next s.preCleared := by
  have hread := (step_busy hq (hpc ▸ nofun)).trans (phaseStep_xbPreRd hm hpc)
  have hwrite : step (s.readStatTo .xbPreWr) = .next s.preCleared :=
    (step_busy (s := s.readStatTo .xbPreWr) hq nofun).trans (phaseXbPreWr_of_mapped hm)
  rw [run_of_step hread, run_one, hwrite]

theorem State.byteAt_preCleared_stat (hwf : s.mem.wf) :
    s.preCleared.byteAt Config.offStat = preClearValue (s.byteAt Config.offStat) :=
  Memory.read_write_same _ _ _ hwf

theorem State.byteAt_preCleared_ne {a : Offset} (h : a ≠ Config.offStat) :
    s.preCleared.byteAt a = s.byteAt a :=
  State.byteAt_store_ne s _ h

/-- R154: after the pre-clear bit 2 of `stat` is clear. -/
theorem preClearValue_bit2 (v : Byte) : (preClearValue v).getLsbD 2 = false := by
  rw [preClearValue, BitVec.getLsbD_and, Bool.and_eq_false_iff]
  exact .inr rfl

/-! ## From `X_DATA` to the answer -/

/-- The state a transfer that begins the loop at `s` ends in: the buffer and the doorbell are written. -/
def State.transferred (s : State) : State :=
  { s with
    mem := (s.mem.writeBlock s.ch.base s.stage.toList).write Config.offFff.toNat Config.doorbellVal
    tmp := s.byteAt Config.offStat
    idx := 1019#10
    pc := .idle
    trace := s.trace ++ writeEvents s.ch.base s.stage.toList ++ tailEvents (s.byteAt Config.offStat)
    responses := s.responses ++ [⟨s.owner, .ok, .none, []⟩] }

/-- Outside the buffer the loop leaves the window. -/
theorem read_writeBlock_of_not_inBuffer {m : Memory} {c : Channel} {bytes : Vector Byte 1020}
    {a : Offset} (h : ¬ inBuffer c a) :
    (m.writeBlock c.base bytes.toList).read a.toNat = m.read a.toNat :=
  Memory.read_writeBlock_ne fun _ hi ha => h (ha ▸ inBuffer_blockOffset c (by simpa using hi))

theorem run_transfer (hq : s.Quiet) (hm : s.mapped = true) (hwf : s.mem.wf) (hpc : s.pc = .xData)
    (hidx : s.idx = 0#10) :
    run (1022 + nudgeSteps (s.byteAt Config.offStat)) s = .next s.transferred := by
  have hbell := run_xBell (s := s.dataWritten) hq hm (Memory.wf_writeBlock hwf) rfl
  have hstat : s.dataWritten.byteAt Config.offStat = s.byteAt Config.offStat :=
    read_writeBlock_of_not_inBuffer (not_inBuffer_stat s.ch)
  have hsteps : 1022 + nudgeSteps (s.byteAt Config.offStat) =
      1020 + (nudgeSteps (s.byteAt Config.offStat) + 2) := by omega
  rw [State.finishedFromBell, hstat] at hbell
  rw [hsteps, run_add, run_xData hq hm hpc hidx, andThen_next, hbell]
  rfl

/-- The transfer of channel B from its first phase: the nudge never runs (R154). -/
theorem run_transfer_preClear (hq : s.Quiet) (hm : s.mapped = true) (hwf : s.mem.wf)
    (hpc : s.pc = .xbPreRd) (hidx : s.idx = 0#10) :
    run 1024 s = .next s.preCleared.transferred := by
  have hrest := run_transfer (s := s.preCleared) hq hm (State.wf_store s _ _ hwf) rfl hidx
  rw [State.byteAt_preCleared_stat hwf, nudgeSteps_of_clear (preClearValue_bit2 _)] at hrest
  rw [run_add 2 1022, run_preClear hq hm hpc, andThen_next]
  exact hrest

theorem State.wf_transferred (hwf : s.mem.wf) : s.transferred.mem.wf :=
  Memory.wf_write_offset _ _ (Memory.wf_writeBlock hwf)

theorem State.byteAt_transferred_fff (hwf : s.mem.wf) :
    s.transferred.byteAt Config.offFff = Config.doorbellVal :=
  Memory.read_write_same _ _ _ (Memory.wf_writeBlock hwf)

theorem State.byteAt_transferred_ne {a : Offset} (h : ¬ inBuffer s.ch a) (hfff : a ≠ Config.offFff) :
    s.transferred.byteAt a = s.byteAt a :=
  (Memory.read_write_ne _ _ fun e => hfff (BitVec.eq_of_toNat_eq e)).trans
    (read_writeBlock_of_not_inBuffer h)

theorem State.block_transferred (hwf : s.mem.wf) : s.transferred.block s.ch.base = s.stage.toList := by
  refine List.ext_getElem (by simp [State.block]) fun i hi _ => ?_
  have hi' : i < 1020 := by simpa [State.block] using hi
  have hfff : (blockOffset s.ch.base i).toNat ≠ Config.offFff.toNat := fun e =>
    not_inBuffer_fff s.ch (BitVec.eq_of_toNat_eq e ▸ inBuffer_blockOffset s.ch hi')
  simp only [State.block, List.getElem_map, List.getElem_range]
  exact (Memory.read_write_ne _ _ hfff).trans (Memory.read_writeBlock hwf (by simp) (by simpa))

end Sys2Proof.Machine

open Sys2Proof Sys2Proof.Machine

/-- Settles O26: capture, then the run from `X_DATA`; the nudge writes back the byte it read. -/
theorem transferOnChannelA : Obligations.TransferOnChannelA := by
  intro data s hq hm hwf hlen
  obtain ⟨bytes, rfl, hexec⟩ := exec_xferCommand .a hlen
  exact ⟨_, _, hexec s, rfl, rfl, run_transfer (s := s.captured .a bytes) hq hm hwf rfl rfl, rfl,
    State.block_transferred (s := s.captured .a bytes) hwf,
    State.byteAt_transferred_fff (s := s.captured .a bytes) hwf,
    fun _ => State.byteAt_transferred_ne (s := s.captured .a bytes)⟩

/-- Settles O27: capture, the pre-clear, then the run from `X_DATA` without the nudge. -/
theorem transferOnChannelB : Obligations.TransferOnChannelB := by
  intro data s hq hm hwf hlen
  obtain ⟨bytes, rfl, hexec⟩ := exec_xferCommand .b hlen
  have hstat := State.byteAt_preCleared_stat (s := s.captured .b bytes) hwf
  have hpwf : (s.captured .b bytes).preCleared.mem.wf := State.wf_store s _ _ hwf
  refine ⟨_, _, hexec s, rfl, rfl, run_transfer_preClear (s := s.captured .b bytes) hq hm hwf rfl rfl,
    ?_, State.block_transferred hpwf, State.byteAt_transferred_fff hpwf,
    (State.byteAt_transferred_ne (not_inBuffer_stat .b) (by decide)).trans hstat,
    fun a ha hfff hne => (State.byteAt_transferred_ne ha hfff).trans (State.byteAt_preCleared_ne hne)⟩
  have htrace : (s.captured .b bytes).preCleared.trace = s.trace ++
      [.rd8 0x001#12 (s.byteAt Config.offStat),
        .wr8 0x001#12 (s.byteAt Config.offStat &&& 0xA0#8)] := List.append_assoc ..
  rw [State.transferred, hstat, tailEvents_of_clear (preClearValue_bit2 _), htrace]
  rfl
end

section
/-!
SUPPORT. A buffer read (41_buffer_transfer.md R149 to R151): the loop of R150 at the base of its channel.
-/
namespace Sys2Proof.Machine

variable {s : State} {data : List Byte}

theorem exec_readCommand (c : Channel) (s : State) :
    exec (readCommand c) s = .next { s with ch := c, idx := 0#10, pc := .rb } := by
  cases c <;> rfl

theorem run_rb (c : Channel) (hq : s.Quiet) (hm : s.mapped = true) :
    run 1020 { s with ch := c, idx := 0#10, pc := .rb } =
      .next ({ s with ch := c, pc := .rb }.readDone c.base) :=
  run_readLoop (s := { s with ch := c, pc := .rb }) hq hm nofun fun _ => rfl

/-- A transfer on either channel ends idle, with its payload in the buffer. -/
theorem runCommand_xfer (c : Channel) (hq : s.Quiet) (hm : s.mapped = true) (hwf : s.mem.wf)
    (hlen : data.length = 1020) :
    ∃ m u, runCommand m (xferCommand c 1020#32 data) s = .next u ∧ u.pc = .idle ∧ u.Quiet ∧
      u.mapped = true ∧ u.owner = s.owner ∧ u.block c.base = data ∧
      u.responses = s.responses ++ [⟨s.owner, .ok, .none, []⟩] := by
  obtain ⟨bytes, rfl, hexec⟩ := exec_xferCommand c hlen
  simp only [runCommand, hexec, andThen_next]
  cases c with
  | a =>
    exact ⟨_, _, run_transfer (s := s.captured .a bytes) hq hm hwf rfl rfl, rfl, hq, hm, rfl,
      State.block_transferred (s := s.captured .a bytes) hwf, rfl⟩
  | b =>
    exact ⟨_, _, run_transfer_preClear (s := s.captured .b bytes) hq hm hwf rfl rfl, rfl, hq, hm,
      rfl, State.block_transferred (s := (s.captured .b bytes).preCleared) (State.wf_store s _ _ hwf),
      rfl⟩

/-- A buffer read answers what the buffer holds. -/
theorem runCommand_read {c : Channel} (hq : s.Quiet) (hm : s.mapped = true)
    (h : s.block c.base = data) :
    ∃ w, runCommand 1020 (readCommand c) s = .next w ∧
      w.responses = s.responses ++ [⟨s.owner, .ok, .none, data⟩] := by
  subst h
  rw [runCommand, exec_readCommand, andThen_next]
  exact ⟨_, run_rb c hq hm, rfl⟩

end Sys2Proof.Machine

open Sys2Proof Sys2Proof.Machine

/-- Settles O24: `RB` is the read loop at the base of the channel. -/
theorem bufferReadReturnsTheBuffer : Obligations.BufferReadReturnsTheBuffer :=
  fun c s hq hm => ⟨_, exec_readCommand c s, run_rb c hq hm,
    State.stageRead_toList { s with ch := c, pc := .rb } _, rfl⟩

/-- Settles O28: the buffer read answers the block that the transfer left in the buffer. -/
theorem bufferReadReturnsWhatTransferWrote : Obligations.BufferReadReturnsWhatTransferWrote := by
  intro c data s hq hm hwf hlen
  obtain ⟨m, u, hrun, hidle, huq, hum, howner, hblock, hresp⟩ := runCommand_xfer c hq hm hwf hlen
  obtain ⟨w, hread, hwresp⟩ := runCommand_read huq hum hblock
  refine ⟨m, u, w, hrun, hidle, hread, ?_⟩
  rw [hwresp, hresp, howner, List.append_assoc]
  rfl
end

section
/-!
SUPPORT. Two transfers offered together on channel A (41_buffer_transfer.md R153): the arbiter takes one, and
at the next `IDLE` the other is the only candidate (60_exceptions.md R208, R209).
-/
namespace Sys2Proof.Machine

variable {s : State} {data first second : List Byte}

/-- The request of a whole transfer on channel A (T30). -/
def xferARequest (data : List Byte) : Request := ⟨0x3000000003FC#48, data⟩

/-- Accepted on `CMD`, the request is captured and runs to its answer. -/
theorem run_accepted_xferA {t : State} (hlen : data.length = 1020)
    (hs : step s = acceptRequest .cmd (xferARequest data) t) (hq : t.Quiet) (hm : t.mapped = true)
    (hwf : t.mem.wf) :
    ∃ (bytes : Vector Byte 1020) (n : Nat), bytes.toList = data ∧
      run n s = .next (t.captured .a bytes).transferred := by
  obtain ⟨bytes, hbytes, hexec⟩ := exec_xferCommand .a hlen
  have haccept : acceptRequest .cmd (xferARequest data) t = .next (t.captured .a bytes) := by
    rw [acceptRequest, xferARequest, decode_xferA_full hlen]
    exact hexec t
  exact ⟨bytes, _, hbytes, (run_of_step (hs.trans haccept)).trans
    (run_transfer (s := t.captured .a bytes) hq hm hwf rfl rfl)⟩

/-- With the other ports empty and `CMD` open, the candidates are the requests on `CMD`. -/
theorem candidates_of_cmd_only (hsurf : s.surface = true) (hirq : s.irqReq = none)
    (hlife : s.lifeReq = none) :
    candidates s = (List.range s.cmdReqs.length).map Offered.cmd := by
  have hcmd : ∀ o ∈ (List.range s.cmdReqs.length).map Offered.cmd, acceptable s o = true := by
    simp only [List.forall_mem_map, List.mem_range]
    intro k hk
    simp [acceptable, offeredRequest, offeredPort, gateOpen, hk, hsurf]
  have hothers : [Offered.irq, .life].filter (acceptable s) = [] := by
    simp [acceptable, offeredRequest, hirq, hlife]
  rw [candidates, List.filter_append, hothers, List.append_nil, List.filter_eq_self.2 hcmd]

/-- Of two requests on `CMD` the step accepts one, by the arbiter's choice. -/
theorem step_of_two_on_cmd {r₀ r₁ : Request} (hq : s.Quiet) (hpc : s.pc = .idle)
    (hsurf : s.surface = true) (hirq : s.irqReq = none) (hlife : s.lifeReq = none)
    (hreqs : s.cmdReqs = [r₀, r₁]) :
    step s = acceptRequest .cmd r₀ (takeOff s (.cmd 0) (s.draws + 1)) ∨
      step s = acceptRequest .cmd r₁ (takeOff s (.cmd 1) (s.draws + 1)) := by
  have hcand : candidates s = [.cmd 0, .cmd 1] := by
    rw [candidates_of_cmd_only hsurf hirq hlife, hreqs]
    rfl
  simp only [step_idle hq hpc, arbitrate, hcand]
  rcases Nat.mod_two_eq_zero_or_one (Config.arbPick s.draws) with hpick | hpick
  · left
    simp [hpick, accept, offeredRequest, hreqs, takeOff, offeredPort]
  · right
    simp [hpick, accept, offeredRequest, hreqs, takeOff, offeredPort]

/-- With one request left on `CMD` the step accepts it. -/
theorem step_of_one_on_cmd {r : Request} (hq : s.Quiet) (hpc : s.pc = .idle)
    (hsurf : s.surface = true) (hirq : s.irqReq = none) (hlife : s.lifeReq = none)
    (hreqs : s.cmdReqs = [r]) : step s = acceptRequest .cmd r (takeOff s (.cmd 0) s.draws) := by
  have hcand : candidates s = [.cmd 0] := by
    rw [candidates_of_cmd_only hsurf hirq hlife, hreqs]
    rfl
  exact step_of_only_candidate hq hpc hcand (by rw [offeredRequest, hreqs]; rfl)

/-- Whichever of two transfers is accepted first, it is done whole and then the other is. -/
theorem run_both_transfers {k d : Nat} (hq : s.Quiet) (hm : s.mapped = true)
    (hsurf : s.surface = true) (hwf : s.mem.wf) (hirq : s.irqReq = none) (hlife : s.lifeReq = none)
    (hfirst : first.length = 1020) (hsecond : second.length = 1020)
    (hstep : step s = acceptRequest .cmd (xferARequest first) (takeOff s (.cmd k) d))
    (hleft : (takeOff s (.cmd k) d).cmdReqs = [xferARequest second]) :
    ∃ n u, run n s = .next u ∧ u.pc = .idle ∧ u.cmdReqs = [] ∧ u.block 0x800#12 = second ∧
      u.trace = s.trace ++ (writeEvents 0x800#12 first ++ tailEvents (s.byteAt Config.offStat)) ++
        (writeEvents 0x800#12 second ++ tailEvents (s.byteAt Config.offStat)) ∧
      u.responses = s.responses ++ [⟨.cmd, .ok, .none, []⟩, ⟨.cmd, .ok, .none, []⟩] := by
  obtain ⟨bytes₁, n₁, rfl, hrun₁⟩ := run_accepted_xferA hfirst hstep hq hm hwf
  let c₁ := (takeOff s (.cmd k) d).captured .a bytes₁
  have hwf₁ : c₁.transferred.mem.wf := State.wf_transferred (s := c₁) hwf
  have hstat : c₁.transferred.byteAt Config.offStat = s.byteAt Config.offStat :=
    State.byteAt_transferred_ne (s := c₁) (not_inBuffer_stat .a) (by decide)
  obtain ⟨bytes₂, n₂, rfl, hrun₂⟩ := run_accepted_xferA hsecond
    (step_of_one_on_cmd (s := c₁.transferred) hq rfl hsurf hirq hlife hleft) hq hm hwf₁
  let c₂ := (takeOff c₁.transferred (.cmd 0) c₁.transferred.draws).captured .a bytes₂
  refine ⟨n₁ + n₂, c₂.transferred, ?_, rfl, ?_, State.block_transferred (s := c₂) hwf₁, ?_, ?_⟩
  · rw [run_add, hrun₁, andThen_next, hrun₂]
  · exact congrArg (List.eraseIdx · 0) hleft
  · have hstat₂ : c₂.byteAt Config.offStat = s.byteAt Config.offStat := hstat
    rw [State.transferred, hstat₂, ← List.append_assoc, ← List.append_assoc]
    rfl
  · exact List.append_assoc ..

end Sys2Proof.Machine

open Sys2Proof Sys2Proof.Machine

/-- Settles O32: the arbiter's choice fixes the order; nothing else depends on it. -/
theorem concurrentTransfersAreSerialised : Obligations.ConcurrentTransfersAreSerialised := by
  intro b c s hq hpc hm hsurf hwf hb hc hreqs hirq hlife
  rcases step_of_two_on_cmd hq hpc hsurf hirq hlife hreqs with hstep | hstep
  · have hleft : (takeOff s (.cmd 0) (s.draws + 1)).cmdReqs = [xferARequest c] :=
      congrArg (List.eraseIdx · 0) hreqs
    obtain ⟨n, u, hrun, hidle, hnone, hends⟩ :=
      run_both_transfers hq hm hsurf hwf hirq hlife hb hc hstep hleft
    exact ⟨n, u, b, c, hrun, hidle, hnone, .inl ⟨rfl, rfl⟩, hends⟩
  · have hleft : (takeOff s (.cmd 1) (s.draws + 1)).cmdReqs = [xferARequest b] :=
      congrArg (List.eraseIdx · 1) hreqs
    obtain ⟨n, u, hrun, hidle, hnone, hends⟩ :=
      run_both_transfers hq hm hsurf hwf hirq hlife hc hb hstep hleft
    exact ⟨n, u, c, b, hrun, hidle, hnone, .inr ⟨rfl, rfl⟩, hends⟩
end

section
/-!
SUPPORT. A state inside the loops of the reset sequence (42_reset_sequencer.md R162 to R165): what they
do to the window is a list of offsets cleared, so it is the state they began at with that list, the events
and the counters so far. Lemmas about it take these as variables, so that nothing runs the loops.
-/
namespace Sys2Proof.Machine

variable {s : State} {m : Memory} {a : Offset}

/-! ## Offsets cleared -/

/-- Zero written to each of the offsets; irreducible, so that no unification runs a loop's writes. -/
@[irreducible] def Memory.clear (m : Memory) : List Offset → Memory
  | [] => m
  | off :: offs => Memory.clear (m.write off.toNat 0x00#8) offs

@[simp] theorem Memory.clear_nil (m : Memory) : m.clear [] = m := by
  rw [Memory.clear]

@[simp] theorem Memory.clear_cons (m : Memory) (off : Offset) (offs : List Offset) :
    m.clear (off :: offs) = (m.write off.toNat 0x00#8).clear offs := by
  rw [Memory.clear]

theorem Memory.clear_append (m : Memory) (offs offs' : List Offset) :
    m.clear (offs ++ offs') = (m.clear offs).clear offs' := by
  induction offs generalizing m with
  | nil => simp
  | cons off offs ih => simp [ih]

theorem Memory.wf_clear {offs : List Offset} (h : m.wf) : (m.clear offs).wf := by
  induction offs generalizing m with
  | nil => simpa using h
  | cons off offs ih => simpa using ih (Memory.wf_write_offset off _ h)

theorem Memory.read_clear (offs : List Offset) (h : m.wf) :
    (m.clear offs).read a.toNat = if a ∈ offs then 0x00#8 else m.read a.toNat := by
  induction offs generalizing m with
  | nil => simp
  | cons off offs ih =>
    rw [Memory.clear_cons, ih (Memory.wf_write_offset off _ h)]
    simp only [Memory.read_write _ _ _ _ h, BitVec.toNat_inj, List.mem_cons]
    by_cases hoff : a = off <;> simp [hoff]

/-- The first `n` offsets of the block at `base`. -/
def blockOffsets (base : Offset) (n : Nat) : List Offset := (List.range n).map (blockOffset base)

theorem blockOffsets_succ (base : Offset) (n : Nat) :
    blockOffsets base (n + 1) = blockOffsets base n ++ [blockOffset base n] := by
  simp [blockOffsets, List.range_succ]

/-- The 1020 offsets of a channel's block are the offsets of its buffer. -/
theorem mem_blockOffsets (c : Channel) : a ∈ blockOffsets c.base 1020 ↔ inBuffer c a := by
  simp only [blockOffsets, List.mem_map, List.mem_range]
  constructor
  · rintro ⟨i, hi, rfl⟩
    exact inBuffer_blockOffset c hi
  · rintro ⟨hlow, hhigh⟩
    have hsub : (a - c.base).toNat < Config.bufSize :=
      BitVec.toNat_sub_of_le hlow ▸ Nat.sub_lt_left_of_lt_add hlow hhigh
    exact ⟨(a - c.base).toNat, hsub, by
      simp only [blockOffset, BitVec.ofNat_toNat, BitVec.setWidth_eq, add_sub_cancel]⟩

/-- The four offsets of a 32-bit access. -/
def wordOffsets (off : Offset) : List Offset := [off, off + 1, off + 2, off + 3]

theorem State.store_zero (s : State) (off : Offset) :
    s.store off 0#8 = { s with mem := s.mem.clear [off] } := by
  rw [Memory.clear_cons, Memory.clear_nil, State.store]

theorem State.storeWord_zero (s : State) (off : Offset) :
    s.storeWord off 0#32 = { s with mem := s.mem.clear (wordOffsets off) } := by
  simp only [wordOffsets, Memory.clear_cons, Memory.clear_nil]
  rfl

/-! ## A state inside the sequence -/

/-- A counter below the last value of its loop is not at it. -/
theorem ofNat_ne_ofNat_of_lt {w i j : Nat} (hij : i < j) (hj : j < 2 ^ w) :
    BitVec.ofNat w i ≠ BitVec.ofNat w j := fun h => by
  have hmod : i % 2 ^ w = j % 2 ^ w := congrArg BitVec.toNat h
  rw [Nat.mod_eq_of_lt hj, Nat.mod_eq_of_lt (hij.trans hj)] at hmod
  exact hij.ne hmod

/-- How far the sequence is: the offsets cleared, the events, the counters and the phase. -/
structure ResetProgress where
  cleared : List Offset
  events : List BusEvent
  idx : BitVec 10
  iter : BitVec 15
  sub : BitVec 2
  pc : Phase

/-- More offsets cleared, with their events. -/
def ResetProgress.add (p : ResetProgress) (offs : List Offset) (events : List BusEvent) :
    ResetProgress :=
  { p with cleared := p.cleared ++ offs, events := p.events ++ events }

/-- The state inside the sequence that began at `s`. -/
def State.inReset (s : State) (p : ResetProgress) : State :=
  { s with
    mem := s.mem.clear p.cleared
    pc := p.pc
    idx := p.idx
    iter := p.iter
    sub := p.sub
    trace := s.trace ++ p.events }

variable {p : ResetProgress}

theorem step_inReset (hq : s.Quiet) (hpc : p.pc ≠ .idle) :
    step (s.inReset p) = phaseStep (s.inReset p) :=
  step_busy (s := s.inReset p) hq hpc

theorem State.inReset_wr8 (s : State) (p : ResetProgress) (off : Offset) :
    ((s.inReset p).store off 0#8).emit (.wr8 off 0#8) =
      s.inReset (p.add [off] [.wr8 off 0#8]) := by
  simp only [State.store_zero, State.inReset, State.emit, ResetProgress.add, Memory.clear_append,
    List.append_assoc]

theorem State.inReset_nextIdx_more {atEnd : State → State} (h : p.idx ≠ 1019#10) :
    (s.inReset p).nextIdx atEnd = s.inReset { p with idx := p.idx + 1 } :=
  State.nextIdx_more (s := s.inReset p) atEnd h

theorem State.inReset_nextIdx_end {atEnd : State → State} (h : p.idx = 1019#10) :
    (s.inReset p).nextIdx atEnd = atEnd (s.inReset p) :=
  State.nextIdx_end (s := s.inReset p) atEnd h

end Sys2Proof.Machine
end

section
/-!
SUPPORT. The zeroing loops of R163 and R164: each step as one explicit next state, each loop as one run.
-/
namespace Sys2Proof.Machine

variable {s : State} {base : Offset} {n : Nat} {p : ResetProgress}

/-! ## The steps -/

theorem zeroLoop_eq (atEnd : State → State) (hm : s.mapped = true) (hi : s.idx.toNat < 1020) :
    zeroLoop base atEnd s =
      .next (((s.store (blockOffset base s.idx.toNat) 0x00#8).emit
        (.wr8 (blockOffset base s.idx.toNat) 0x00#8)).nextIdx atEnd) := by
  rw [zeroLoop_of_mapped base atEnd hm hi, State.idxOffset_eq_blockOffset]

theorem phaseStep_rsZa (hm : s.mapped = true) (hpc : s.pc = .rsZa) (hi : s.idx.toNat < 1020) :
    phaseStep s = .next { s with
      mem := s.mem.write (blockOffset Config.offBufA s.idx.toNat).toNat 0x00#8
      idx := if s.idx = 1019#10 then 0#10 else s.idx + 1
      pc := if s.idx = 1019#10 then .rsZb else .rsZa
      trace := s.trace ++ [.wr8 (blockOffset Config.offBufA s.idx.toNat) 0x00#8] } := by
  rw [phaseStep, hpc]
  refine (zeroLoop_eq _ hm hi).trans (congrArg Host.Outcome.next ?_)
  by_cases hend : s.idx = 1019#10
  · rw [if_pos hend, if_pos hend]
    exact State.nextIdx_end _ hend
  · rw [if_neg hend, if_neg hend, ← hpc]
    exact State.nextIdx_more _ hend

theorem phaseStep_rsZb (hm : s.mapped = true) (hpc : s.pc = .rsZb) (hi : s.idx.toNat < 1020) :
    phaseStep s = .next { s with
      mem := s.mem.write (blockOffset Config.offBufB s.idx.toNat).toNat 0x00#8
      idx := if s.idx = 1019#10 then s.idx else s.idx + 1
      iter := if s.idx = 1019#10 then 0#15 else s.iter
      sub := if s.idx = 1019#10 then 0#2 else s.sub
      pc := if s.idx = 1019#10 then .rsSettle else .rsZb
      trace := s.trace ++ [.wr8 (blockOffset Config.offBufB s.idx.toNat) 0x00#8] } := by
  rw [phaseStep, hpc]
  refine (zeroLoop_eq _ hm hi).trans (congrArg Host.Outcome.next ?_)
  by_cases hend : s.idx = 1019#10
  · rw [if_pos hend, if_pos hend, if_pos hend, if_pos hend]
    exact State.nextIdx_end _ hend
  · rw [if_neg hend, if_neg hend, if_neg hend, if_neg hend, ← hpc]
    exact State.nextIdx_more _ hend

/-! ## The loops -/

/-- Before write `n` of the zeroing loop at `base` that began at `p`. -/
def ResetProgress.zeroed (p : ResetProgress) (base : Offset) (n : Nat) : ResetProgress :=
  { p.add (blockOffsets base n) (writeEvents base (List.replicate n 0x00#8)) with
    idx := BitVec.ofNat 10 n }

theorem ResetProgress.zeroed_zero (h : p.idx = 0#10) : p.zeroed base 0 = p := by
  simp [ResetProgress.zeroed, ResetProgress.add, blockOffsets, writeEvents, ← h]

/-- Write `n`: all of the next progress but `idx`. -/
theorem ResetProgress.zeroed_add (p : ResetProgress) (base : Offset) (n : Nat) :
    (p.zeroed base n).add [blockOffset base n] [.wr8 (blockOffset base n) 0#8] =
      { p.zeroed base (n + 1) with idx := BitVec.ofNat 10 n } := by
  simp only [ResetProgress.zeroed, ResetProgress.add, blockOffsets_succ, List.replicate_succ',
    writeEvents_concat, List.length_replicate, List.append_assoc]

theorem zeroLoop_zeroed (atEnd : State → State) (hm : s.mapped = true) (hn : n < 1020) :
    zeroLoop base atEnd (s.inReset (p.zeroed base n)) =
      .next ((s.inReset { p.zeroed base (n + 1) with idx := BitVec.ofNat 10 n }).nextIdx atEnd) := by
  have hidx : (s.inReset (p.zeroed base n)).idx.toNat = n :=
    Nat.mod_eq_of_lt (hn.trans (by decide))
  rw [zeroLoop_eq (s := s.inReset (p.zeroed base n)) atEnd hm (hidx.symm ▸ hn), hidx,
    State.inReset_wr8, ResetProgress.zeroed_add]

/-- A phase that is the zeroing loop at `base` clears its 1020 bytes, in 1020 steps. -/
theorem run_zeroLoop {atEnd : State → State} (hq : s.Quiet) (hm : s.mapped = true)
    (hpc : p.pc ≠ .idle) (hidx : p.idx = 0#10)
    (hloop : ∀ n, phaseStep (s.inReset (p.zeroed base n)) =
      zeroLoop base atEnd (s.inReset (p.zeroed base n))) :
    run 1020 (s.inReset p) =
      .next (atEnd (s.inReset { p.zeroed base 1020 with idx := 1019#10 })) := by
  have hstep : ∀ n < 1020, step (s.inReset (p.zeroed base n)) =
      .next ((s.inReset { p.zeroed base (n + 1) with idx := BitVec.ofNat 10 n }).nextIdx atEnd) :=
    fun n hn => (step_inReset (p := p.zeroed base n) hq hpc).trans
      ((hloop n).trans (zeroLoop_zeroed atEnd hm hn))
  have hmost : run 1019 (s.inReset (p.zeroed base 0)) = .next (s.inReset (p.zeroed base 1019)) := by
    refine run_of_steps (f := fun n => s.inReset (p.zeroed base n)) fun n hn => ?_
    have hmore : BitVec.ofNat 10 n ≠ 1019#10 := ofNat_ne_ofNat_of_lt hn (by decide)
    rw [hstep n (hn.trans (by decide)), State.inReset_nextIdx_more hmore]
    simp [ResetProgress.zeroed, BitVec.ofNat_add]
  rw [ResetProgress.zeroed_zero hidx] at hmost
  rw [run_add 1019 1, hmost, andThen_next, run_one, hstep 1019 (by decide),
    State.inReset_nextIdx_end rfl]

/-- The end of the loop at `RS_ZA`. -/
def ResetProgress.bufAZeroed (p : ResetProgress) : ResetProgress :=
  { p.zeroed Config.offBufA 1020 with idx := 0#10, pc := .rsZb }

/-- The end of the loop at `RS_ZB`. -/
def ResetProgress.bufBZeroed (p : ResetProgress) : ResetProgress :=
  { p.zeroed Config.offBufB 1020 with
    idx := 1019#10, iter := 0#15, sub := 0#2, pc := .rsSettle }

theorem run_rsZa (hq : s.Quiet) (hm : s.mapped = true) (hpc : p.pc = .rsZa) (hidx : p.idx = 0#10) :
    run 1020 (s.inReset p) = .next (s.inReset p.bufAZeroed) := by
  have hend : ∀ q, { s.inReset q with idx := 0#10, pc := .rsZb } =
      s.inReset { q with idx := 0#10, pc := .rsZb } := fun _ => rfl
  have hloop n : phaseStep (s.inReset (p.zeroed Config.offBufA n)) =
      phaseRsZa (s.inReset (p.zeroed Config.offBufA n)) := by
    rw [phaseStep, show (s.inReset (p.zeroed Config.offBufA n)).pc = .rsZa from hpc]
  rw [run_zeroLoop hq hm (hpc ▸ nofun) hidx hloop, hend, ResetProgress.bufAZeroed]

theorem run_rsZb (hq : s.Quiet) (hm : s.mapped = true) (hpc : p.pc = .rsZb) (hidx : p.idx = 0#10) :
    run 1020 (s.inReset p) = .next (s.inReset p.bufBZeroed) := by
  have hend : ∀ q, { s.inReset q with iter := 0#15, sub := 0#2, pc := .rsSettle } =
      s.inReset { q with iter := 0#15, sub := 0#2, pc := .rsSettle } := fun _ => rfl
  have hloop n : phaseStep (s.inReset (p.zeroed Config.offBufB n)) =
      phaseRsZb (s.inReset (p.zeroed Config.offBufB n)) := by
    rw [phaseStep, show (s.inReset (p.zeroed Config.offBufB n)).pc = .rsZb from hpc]
  rw [run_zeroLoop hq hm (hpc ▸ nofun) hidx hloop, hend, ResetProgress.bufBZeroed]

end Sys2Proof.Machine

open Sys2Proof Sys2Proof.Machine

/-- Settles O33: each step is one store of the zeroing loop, and a read after a write finds it. -/
theorem zeroingSteps : Obligations.ZeroingSteps := fun s hm hwf hi =>
  ⟨fun hpc => ⟨_, phaseStep_rsZa hm hpc hi, rfl, Memory.read_write_same _ _ _ hwf,
      fun _ => State.byteAt_store_ne s _⟩,
    fun hpc => ⟨_, phaseStep_rsZb hm hpc hi, rfl, Memory.read_write_same _ _ _ hwf,
      fun _ => State.byteAt_store_ne s _⟩⟩
end

section
/-!
SUPPORT. The settling loop of R165: one iteration, and the 30,000 as one run.
-/
namespace Sys2Proof.Machine

variable {s : State} {n : Nat} {p : ResetProgress}

/-! ## One iteration -/

/-- The nine offsets that one iteration writes. -/
def settleOffsets : List Offset :=
  [Config.offBootp] ++ wordOffsets Config.offBufB ++ wordOffsets Config.offBufA

/-- The three accesses of one iteration are made; only the count is left. -/
def State.settled (s : State) : State :=
  { s with
    mem := s.mem.clear settleOffsets
    sub := 2#2
    trace := s.trace ++ settleEvents }

theorem phaseStep_rsSettle (hpc : s.pc = .rsSettle) : phaseStep s = phaseRsSettle s := by
  rw [phaseStep, hpc]

/-- After the first access of one iteration. -/
def State.settledBootp (s : State) : State :=
  { (s.store Config.offBootp 0#8).emit (.wr8 Config.offBootp 0#8) with sub := 1#2 }

/-- After the second access of one iteration. -/
def State.settledBufB (s : State) : State :=
  { (s.settledBootp.storeWord Config.offBufB 0#32).emit (.wr32 Config.offBufB 0#32) with
    sub := 2#2 }

theorem State.settledBufB_settled (s : State) :
    (s.settledBufB.storeWord Config.offBufA 0#32).emit (.wr32 Config.offBufA 0#32) = s.settled := by
  have hevents : settleEvents = [.wr8 Config.offBootp 0#8] ++ [.wr32 Config.offBufB 0#32] ++
      [.wr32 Config.offBufA 0#32] := rfl
  simp only [State.settledBufB, State.settledBootp, State.settled, State.emit, State.store_zero,
    State.storeWord_zero, hevents, settleOffsets, Memory.clear_append, ← List.append_assoc]

theorem run_settle (hq : s.Quiet) (hm : s.mapped = true) (hpc : s.pc = .rsSettle)
    (hsub : s.sub = 0#2) (hi : s.iter.toNat < 30000) :
    run 3 s = .next s.settled.nextIter := by
  have hstep : ∀ t : State, t.turns = [] → t.pc = .rsSettle → step t = phaseRsSettle t :=
    fun t htq htpc => (step_busy htq (htpc ▸ nofun)).trans (phaseStep_rsSettle htpc)
  have hbootp : step s = .next s.settledBootp :=
    (hstep s hq hpc).trans (phaseRsSettle_bootp hm hi hsub)
  have hbufB : step s.settledBootp = .next s.settledBufB :=
    (hstep s.settledBootp hq hpc).trans (phaseRsSettle_bufB hm hi rfl)
  have hbufA := (hstep s.settledBufB hq hpc).trans
    (phaseRsSettle_bufA (s := s.settledBufB) hm hi rfl)
  rw [run_of_step hbootp, run_of_step hbufB, run_one, hbufA, State.settledBufB_settled]

theorem State.nextIter_end (h : s.iter = 29999#15) : s.nextIter = s.goto .rsRun := if_pos h

theorem State.nextIter_more (h : s.iter ≠ 29999#15) :
    s.nextIter = { s with iter := s.iter + 1, sub := 0#2 } := if_neg h

/-- The count of R165, on every register it touches. -/
theorem State.settled_nextIter (hpc : s.pc = .rsSettle) :
    s.settled.nextIter = { s.settled with
      iter := if s.iter = 29999#15 then s.iter else s.iter + 1
      sub := if s.iter = 29999#15 then 2#2 else 0#2
      pc := if s.iter = 29999#15 then .rsRun else .rsSettle } := by
  by_cases hend : s.iter = 29999#15
  · rw [if_pos hend, if_pos hend, if_pos hend]
    exact State.nextIter_end hend
  · rw [if_neg hend, if_neg hend, if_neg hend, ← hpc]
    exact State.nextIter_more hend

/-! ## The loop -/

theorem State.inReset_settled (s : State) (p : ResetProgress) :
    (s.inReset p).settled = s.inReset { p.add settleOffsets settleEvents with sub := 2#2 } := by
  simp only [State.settled, State.inReset, ResetProgress.add, Memory.clear_append,
    List.append_assoc]

theorem State.inReset_nextIter_more (h : p.iter ≠ 29999#15) :
    (s.inReset p).nextIter = s.inReset { p with iter := p.iter + 1, sub := 0#2 } :=
  State.nextIter_more (s := s.inReset p) h

theorem State.inReset_nextIter_end (h : p.iter = 29999#15) :
    (s.inReset p).nextIter = s.inReset { p with pc := .rsRun } :=
  State.nextIter_end (s := s.inReset p) h

/-- Before iteration `n` of the loop that began at `p`. -/
def ResetProgress.settledTo (p : ResetProgress) (n : Nat) : ResetProgress :=
  { p.add (List.replicate n settleOffsets).flatten (List.replicate n settleEvents).flatten with
    iter := BitVec.ofNat 15 n
    sub := 0#2 }

theorem ResetProgress.settledTo_zero (hiter : p.iter = 0#15) (hsub : p.sub = 0#2) :
    p.settledTo 0 = p := by
  simp [ResetProgress.settledTo, ResetProgress.add, ← hiter, ← hsub]

/-- The accesses of iteration `n`: all of the next progress but the two counters. -/
theorem ResetProgress.settledTo_add (p : ResetProgress) (n : Nat) :
    { (p.settledTo n).add settleOffsets settleEvents with sub := 2#2 } =
      { p.settledTo (n + 1) with iter := BitVec.ofNat 15 n, sub := 2#2 } := by
  simp only [ResetProgress.settledTo, ResetProgress.add, List.replicate_succ', List.flatten_concat,
    List.append_assoc]

theorem run_settle_settledTo (hq : s.Quiet) (hm : s.mapped = true) (hpc : p.pc = .rsSettle)
    (hn : n < 30000) :
    run 3 (s.inReset (p.settledTo n)) =
      .next (s.inReset
        { p.settledTo (n + 1) with iter := BitVec.ofNat 15 n, sub := 2#2 }).nextIter := by
  have hiter : (BitVec.ofNat 15 n).toNat = n := Nat.mod_eq_of_lt (hn.trans (by decide))
  rw [run_settle (s := s.inReset (p.settledTo n)) hq hm hpc rfl (hiter.symm ▸ hn),
    State.inReset_settled, ResetProgress.settledTo_add]

theorem run_settledTo (hq : s.Quiet) (hm : s.mapped = true) (hpc : p.pc = .rsSettle)
    (hn : n < 30000) :
    run (3 * n) (s.inReset (p.settledTo 0)) = .next (s.inReset (p.settledTo n)) := by
  induction n with
  | zero => rfl
  | succ n ih =>
    have hmore : BitVec.ofNat 15 n ≠ 29999#15 :=
      ofNat_ne_ofNat_of_lt (Nat.lt_of_succ_lt_succ hn) (by decide)
    rw [Nat.mul_succ, run_add, ih (by omega), andThen_next,
      run_settle_settledTo hq hm hpc (by omega), State.inReset_nextIter_more hmore]
    simp [ResetProgress.settledTo, BitVec.ofNat_add]

/-- The end of the loop. -/
def ResetProgress.settleDone (p : ResetProgress) : ResetProgress :=
  { p.settledTo Config.settleIters with iter := 29999#15, sub := 2#2, pc := .rsRun }

/-- The 30,000 iterations. -/
theorem run_rsSettle (hq : s.Quiet) (hm : s.mapped = true) (hpc : p.pc = .rsSettle)
    (hiter : p.iter = 0#15) (hsub : p.sub = 0#2) :
    run 90000 (s.inReset p) = .next (s.inReset p.settleDone) := by
  have hmost := run_settledTo hq hm hpc (by decide : 29999 < 30000)
  rw [ResetProgress.settledTo_zero hiter hsub] at hmost
  rw [run_add (3 * 29999) 3, hmost, andThen_next, run_settle_settledTo hq hm hpc (by decide),
    State.inReset_nextIter_end rfl, ResetProgress.settleDone]

end Sys2Proof.Machine

open Sys2Proof Sys2Proof.Machine

/-- Settles O34: three accesses clear nine offsets, and the count goes on or ends the loop. -/
theorem settlingIterationIsThreeAccesses : Obligations.SettlingIterationIsThreeAccesses := by
  intro s hq hm hwf hpc hsub hi
  have hrun := run_settle hq hm hpc hsub hi
  rw [State.settled_nextIter hpc] at hrun
  exact ⟨_, hrun, rfl, fun _ => Memory.read_clear settleOffsets hwf⟩
end

section
/-!
SUPPORT. The end of the reset sequence (42_reset_sequencer.md R166 to R169): the release of the target
and the three accesses to `stat`, with both continuations.
-/
namespace Sys2Proof.Machine

variable {s : State}

/-- `bootp` is written with RUN (R166). -/
def State.running (s : State) : State :=
  ((s.store Config.offBootp Config.bootpRun).emit (.wr8 Config.offBootp Config.bootpRun)).goto
    .rsStRd

/-- `tmp`, masked, is written to `stat` (R167). -/
def State.statMasked (s : State) : State :=
  ((s.store Config.offStat (resetStatValue s.tmp)).emit
    (.wr8 Config.offStat (resetStatValue s.tmp))).goto .rsStA0

/-- The four events of the end of the sequence when `stat` holds `v` (R172). -/
def releaseEvents (v : Byte) : List BusEvent :=
  [.wr8 Config.offBootp Config.bootpRun, .rd8 Config.offStat v,
    .wr8 Config.offStat (resetStatValue v), .wr8 Config.offStat Config.statBKeep]

/-- The state the sequence at `RS_RUN` ends in: a `RESET` is answered, an `ATTACH` goes on (R169). -/
def State.released (s : State) : State :=
  { s with
    mem := ((s.mem.write Config.offBootp.toNat Config.bootpRun).write Config.offStat.toNat
      (resetStatValue (s.byteAt Config.offStat))).write Config.offStat.toNat Config.statBKeep
    tmp := s.byteAt Config.offStat
    pc := if s.owner = .cmd then .idle else .atSurf
    trace := s.trace ++ releaseEvents (s.byteAt Config.offStat)
    responses := if s.owner = .cmd then s.responses ++ [⟨.cmd, .ok, .none, []⟩] else s.responses }

theorem phaseStep_rsRun (hm : s.mapped = true) (hpc : s.pc = .rsRun) :
    phaseStep s = .next s.running := by
  rw [phaseStep, hpc]
  exact phaseRsRun_of_mapped hm

theorem phaseStep_rsStRd (hm : s.mapped = true) (hpc : s.pc = .rsStRd) :
    phaseStep s = .next (s.readStatTo .rsStWr) := by
  rw [phaseStep, hpc]
  exact readStat_of_mapped _ hm

theorem phaseStep_rsStWr (hm : s.mapped = true) (hpc : s.pc = .rsStWr) :
    phaseStep s = .next s.statMasked := by
  rw [phaseStep, hpc]
  exact phaseRsStWr_of_mapped hm

/-- R168 and R169. -/
theorem phaseStep_rsStA0 (hm : s.mapped = true) (hpc : s.pc = .rsStA0) (ho : s.owner ≠ .irq) :
    phaseStep s = .next { (s.store Config.offStat Config.statBKeep).emit
        (.wr8 Config.offStat Config.statBKeep) with
      pc := if s.owner = .cmd then .idle else .atSurf
      responses := if s.owner = .cmd then s.responses ++ [⟨.cmd, .ok, .none, []⟩]
        else s.responses } := by
  rw [phaseStep, hpc]
  refine (phaseRsStA0_of_mapped hm).trans ?_
  cases howner : s.owner with
  | cmd => simp [finishReset, State.respond, howner]
  | life => simp [finishReset, State.goto, howner]
  | irq => exact absurd howner ho

/-- The release leaves `stat` to the read that follows. -/
theorem State.byteAt_running_stat (s : State) :
    s.running.byteAt Config.offStat = s.byteAt Config.offStat :=
  State.byteAt_store_ne s _ (by decide)

theorem run_release (hq : s.Quiet) (hm : s.mapped = true) (hpc : s.pc = .rsRun)
    (ho : s.owner ≠ .irq) : run 4 s = .next s.released := by
  have hrun := (step_busy hq (hpc ▸ nofun)).trans (phaseStep_rsRun hm hpc)
  have hread : step s.running = .next (s.running.readStatTo .rsStWr) :=
    (step_busy (s := s.running) hq nofun).trans (phaseStep_rsStRd hm rfl)
  have hmask : step (s.running.readStatTo .rsStWr) =
      .next (s.running.readStatTo .rsStWr).statMasked :=
    (step_busy (s := s.running.readStatTo .rsStWr) hq nofun).trans (phaseStep_rsStWr hm rfl)
  have hend := (step_busy (s := (s.running.readStatTo .rsStWr).statMasked) hq nofun).trans
    (phaseStep_rsStA0 hm rfl ho)
  rw [run_of_step hrun, run_of_step hread, run_of_step hmask, run_one, hend, State.readStatTo,
    State.byteAt_running_stat, State.released, releaseEvents, List.append_cons s.trace,
    List.append_cons (s.trace ++ _), List.append_cons (s.trace ++ _ ++ _)]
  rfl

theorem State.byteAt_released_stat (hwf : s.mem.wf) :
    s.released.byteAt Config.offStat = Config.statBKeep :=
  Memory.read_write_same _ _ _ (Memory.wf_write_offset _ _ (Memory.wf_write_offset _ _ hwf))

theorem State.byteAt_released_bootp (hwf : s.mem.wf) :
    s.released.byteAt Config.offBootp = Config.bootpRun := by
  have hne : Config.offBootp.toNat ≠ Config.offStat.toNat := by decide
  exact (Memory.read_write_ne _ _ hne).trans
    ((Memory.read_write_ne _ _ hne).trans (Memory.read_write_same _ _ _ hwf))

theorem State.byteAt_released_ne {a : Offset} (hbootp : a ≠ Config.offBootp)
    (hstat : a ≠ Config.offStat) : s.released.byteAt a = s.byteAt a := by
  have hne : a.toNat ≠ Config.offStat.toNat := fun e => hstat (BitVec.eq_of_toNat_eq e)
  exact (Memory.read_write_ne _ _ hne).trans
    ((Memory.read_write_ne _ _ hne).trans (State.byteAt_store_ne s _ hbootp))

end Sys2Proof.Machine

open Sys2Proof Sys2Proof.Machine

/-- Settles O35: the four steps in one closed form, and its bytes. -/
theorem releaseAndStatSteps : Obligations.ReleaseAndStatSteps :=
  fun _ hq hm hwf hpc ho => ⟨_, run_release hq hm hpc ho, rfl, State.byteAt_released_bootp hwf,
    State.byteAt_released_stat hwf, fun _ => State.byteAt_released_ne⟩
end

section
/-!
SUPPORT. The whole reset sequence (42_reset_sequencer.md R161, R170, R172), for a `RESET` and inside
`ATTACH`: the two zeroing loops, the settling loop and the end, joined into one run.
-/
namespace Sys2Proof.Machine

variable {s : State} {a : Offset} {p : ResetProgress}

/-! ## The offsets and the events -/

/-- Every offset that the loops of the sequence clear, in their order. -/
def resetOffsets : List Offset :=
  blockOffsets Config.offBufA 1020 ++ blockOffsets Config.offBufB 1020 ++
    (List.replicate Config.settleIters settleOffsets).flatten

/-- The events of the loops of the sequence. -/
def clearEvents : List BusEvent :=
  writeEvents Config.offBufA (List.replicate Config.bufSize 0x00#8) ++
  writeEvents Config.offBufB (List.replicate Config.bufSize 0x00#8) ++
  (List.replicate Config.settleIters settleEvents).flatten

theorem resetEvents_eq (v : Byte) : resetEvents v = clearEvents ++ releaseEvents v := rfl

/-- R172: 1,020 events for each buffer, three for each iteration, and the four at the end. -/
theorem resetEvents_length (v : Byte) : (resetEvents v).length = 92044 := by
  have hsettle n : (List.replicate n settleEvents).flatten.length = n * 3 := by
    simp [settleEvents]
  have hzero base n : (writeEvents base (List.replicate n 0x00#8)).length = n := by
    simp [writeEvents]
  simp only [resetEvents_eq, clearEvents, List.length_append, hsettle, hzero]
  rfl

theorem not_inBuffer_bootp (c : Channel) : ¬ inBuffer c Config.offBootp := by
  cases c <;> simp [inBuffer, Channel.base, Config.offBufA, Config.offBufB, Config.offBootp]

theorem mem_resetOffsets (c : Channel) (h : inBuffer c a) : a ∈ resetOffsets := by
  have hblock := (mem_blockOffsets c).2 h
  rw [resetOffsets, List.mem_append, List.mem_append]
  cases c with
  | a => exact .inl (.inl hblock)
  | b => exact .inl (.inr hblock)

theorem settleOffsets_cases (h : a ∈ settleOffsets) : a = Config.offBootp ∨ ∃ c, inBuffer c a := by
  rw [settleOffsets, List.mem_append, List.mem_append, List.mem_singleton] at h
  have hword : ∀ c : Channel, ∀ o ∈ wordOffsets c.base, inBuffer c o := by
    intro c
    cases c <;> simp [wordOffsets, inBuffer, Channel.base, Config.offBufA, Config.offBufB,
      Config.bufSize]
  rcases h with (h | h) | h
  · exact .inl h
  · exact .inr ⟨.b, hword .b a h⟩
  · exact .inr ⟨.a, hword .a a h⟩

/-- Nothing is cleared but `bootp` and the buffers. -/
theorem resetOffsets_cases (h : a ∈ resetOffsets) : a = Config.offBootp ∨ ∃ c, inBuffer c a := by
  rw [resetOffsets, List.mem_append, List.mem_append] at h
  rcases h with (h | h) | h
  · exact .inr ⟨.a, (mem_blockOffsets .a).1 h⟩
  · exact .inr ⟨.b, (mem_blockOffsets .b).1 h⟩
  · obtain ⟨offs, hoffs, ha⟩ := List.mem_flatten.1 h
    exact settleOffsets_cases (List.eq_of_mem_replicate hoffs ▸ ha)

/-! ## The run -/

/-- At `RS_ZA`, with nothing done (R162). -/
def State.resetBegun (s : State) : ResetProgress := ⟨[], [], 0#10, s.iter, s.sub, .rsZa⟩

/-- At `RS_RUN`, with the loops done. -/
def resetCleared : ResetProgress := ⟨resetOffsets, clearEvents, 1019#10, 29999#15, 2#2, .rsRun⟩

theorem State.inReset_resetBegun (s : State) : s.inReset s.resetBegun = s.enterReset := by
  simp only [State.inReset, State.resetBegun, Memory.clear_nil, List.append_nil, State.enterReset]

theorem loops_resetBegun (s : State) :
    s.resetBegun.bufAZeroed.bufBZeroed.settleDone = resetCleared := by
  simp only [ResetProgress.bufAZeroed, ResetProgress.bufBZeroed, ResetProgress.settleDone,
    ResetProgress.settledTo, ResetProgress.zeroed, ResetProgress.add, State.resetBegun,
    resetCleared, resetOffsets, clearEvents, List.nil_append]

theorem run_clear (hq : s.Quiet) (hm : s.mapped = true) :
    run 92040 s.enterReset = .next (s.inReset resetCleared) := by
  rw [← State.inReset_resetBegun, run_add 1020 91020, run_rsZa hq hm rfl rfl, andThen_next,
    run_add 1020 90000, run_rsZb hq hm rfl rfl, andThen_next, run_rsSettle hq hm rfl rfl rfl,
    loops_resetBegun]

theorem run_release_inReset (hq : s.Quiet) (hm : s.mapped = true) (hpc : p.pc = .rsRun)
    (ho : s.owner ≠ .irq) : run 4 (s.inReset p) = .next (s.inReset p).released :=
  run_release (s := s.inReset p) hq hm hpc ho

/-- The state the sequence that began at `s` ends in. -/
def State.afterReset (s : State) : State := (s.inReset resetCleared).released

/-- The 92,044 steps. -/
theorem run_reset (hq : s.Quiet) (hm : s.mapped = true) (ho : s.owner ≠ .irq) :
    run 92044 s.enterReset = .next s.afterReset := by
  rw [run_add 92040 4, run_clear hq hm, andThen_next, run_release_inReset hq hm rfl ho,
    State.afterReset]

/-! ## The bytes -/

theorem State.byteAt_inReset (hwf : s.mem.wf) :
    (s.inReset p).byteAt a = if a ∈ p.cleared then 0x00#8 else s.byteAt a :=
  Memory.read_clear _ hwf

theorem State.wf_inReset (hwf : s.mem.wf) : (s.inReset p).mem.wf := Memory.wf_clear hwf

theorem State.byteAt_inReset_ne (hwf : s.mem.wf) (hbootp : a ≠ Config.offBootp)
    (hbuf : ∀ c, ¬ inBuffer c a) : (s.inReset resetCleared).byteAt a = s.byteAt a :=
  (State.byteAt_inReset hwf).trans (if_neg fun h =>
    (resetOffsets_cases h).elim hbootp fun ⟨c, hc⟩ => hbuf c hc)

theorem State.byteAt_inReset_stat (hwf : s.mem.wf) :
    (s.inReset resetCleared).byteAt Config.offStat = s.byteAt Config.offStat :=
  State.byteAt_inReset_ne hwf (by decide) not_inBuffer_stat

theorem State.byteAt_afterReset_bootp (hwf : s.mem.wf) :
    s.afterReset.byteAt Config.offBootp = Config.bootpRun :=
  State.byteAt_released_bootp (State.wf_inReset hwf)

theorem State.byteAt_afterReset_stat (hwf : s.mem.wf) :
    s.afterReset.byteAt Config.offStat = Config.statBKeep :=
  State.byteAt_released_stat (State.wf_inReset hwf)

theorem State.byteAt_afterReset_of_inBuffer (hwf : s.mem.wf) (c : Channel) (h : inBuffer c a) :
    s.afterReset.byteAt a = 0x00#8 := by
  have hbootp : a ≠ Config.offBootp := fun e => not_inBuffer_bootp c (e ▸ h)
  have hstat : a ≠ Config.offStat := fun e => not_inBuffer_stat c (e ▸ h)
  rw [State.afterReset, State.byteAt_released_ne hbootp hstat, State.byteAt_inReset hwf]
  exact if_pos (mem_resetOffsets c h)

theorem State.block_afterReset (hwf : s.mem.wf) (c : Channel) :
    s.afterReset.block c.base = List.replicate 1020 0x00#8 := by
  refine List.eq_replicate_iff.2 ⟨by simp [State.block], ?_⟩
  simp only [State.block, List.forall_mem_map, List.mem_range]
  exact fun i hi => State.byteAt_afterReset_of_inBuffer hwf c (inBuffer_blockOffset c hi)

theorem State.byteAt_afterReset_ne (hwf : s.mem.wf) (hbootp : a ≠ Config.offBootp)
    (hstat : a ≠ Config.offStat) (hbuf : ∀ c, ¬ inBuffer c a) :
    s.afterReset.byteAt a = s.byteAt a :=
  (State.byteAt_released_ne hbootp hstat).trans (State.byteAt_inReset_ne hwf hbootp hbuf)

/-! ## The other fields -/

theorem State.released_inReset (h : (s.inReset p).byteAt Config.offStat = s.byteAt Config.offStat) :
    (s.inReset p).released = { s with
      mem := (s.inReset p).released.mem
      tmp := s.byteAt Config.offStat
      idx := p.idx
      iter := p.iter
      sub := p.sub
      pc := if s.owner = .cmd then .idle else .atSurf
      trace := s.trace ++ (p.events ++ releaseEvents (s.byteAt Config.offStat))
      responses := if s.owner = .cmd then s.responses ++ [⟨.cmd, .ok, .none, []⟩]
        else s.responses } := by
  rw [State.released, h, ← List.append_assoc]
  rfl

/-- What the sequence leaves in every field, with both continuations of R169. -/
theorem State.afterReset_eq (hwf : s.mem.wf) :
    s.afterReset = { s with
      mem := s.afterReset.mem
      tmp := s.byteAt Config.offStat
      idx := 1019#10
      iter := 29999#15
      sub := 2#2
      pc := if s.owner = .cmd then .idle else .atSurf
      trace := s.trace ++ resetEvents (s.byteAt Config.offStat)
      responses := if s.owner = .cmd then s.responses ++ [⟨.cmd, .ok, .none, []⟩]
        else s.responses } :=
  State.released_inReset (State.byteAt_inReset_stat hwf)

end Sys2Proof.Machine

open Sys2Proof Sys2Proof.Machine

/-- Settles O36: the three loops clear their offsets, and the four steps at the end answer. -/
theorem resetSequenceComplete : Obligations.ResetSequenceComplete := by
  intro s hq hm hwf ho
  have hstate := State.afterReset_eq hwf
  rw [if_pos ho, if_pos ho] at hstate
  refine ⟨s.afterReset, rfl, run_reset hq hm (ho ▸ nofun), hstate, ?_,
    State.byteAt_afterReset_bootp hwf, State.byteAt_afterReset_stat hwf,
    State.block_afterReset hwf .a, State.block_afterReset hwf .b,
    fun a hbootp hstat hA hB => State.byteAt_afterReset_ne hwf hbootp hstat fun c => ?_⟩
  · rw [hstate, List.length_append, resetEvents_length]
  · cases c with
    | a => exact hA
    | b => exact hB
end

section
/-!
SUPPORT. The interrupt service (43_interrupt_service.md R180 to R187) under a quiescent target: the
two diagnostic records, which are one sequence of three reads, the acknowledge between them, and the
whole service as one explicit state.
-/
namespace Sys2Proof.Machine

variable {s : State} {i j k : Fin 6} {atEnd : State → State}

/-! ## A diagnostic record (R182, R184) -/

/-- The step of a record that puts `bootp`, `stat` and `dipsw` at `i`, `j` and `k` of `diag[]`. -/
def recordStep (i j k : Fin 6) (atEnd : State → State) (s : State) : Result :=
  if s.sub = 0#2 then recordDiag Config.offBootp i (fun t => { t with sub := 1#2 }) s
  else if s.sub = 1#2 then recordDiag Config.offStat j (fun t => { t with sub := 2#2 }) s
  else if s.sub = 2#2 then recordDiag Config.offDipsw k atEnd s
  else .fault .counterRange

/-- The end of the record before the acknowledge. -/
def State.toAcknowledge (s : State) : State := { s with sub := 0#2, pc := .iqRd }

theorem phaseStep_iqPre (hpc : s.pc = .iqPre) :
    phaseStep s = recordStep 0 1 2 State.toAcknowledge s := by
  rw [phaseStep, hpc]
  rfl

theorem phaseStep_iqPost (hpc : s.pc = .iqPost) :
    phaseStep s = recordStep 3 4 5 State.finishIrq s := by
  rw [phaseStep, hpc]
  rfl

/-- One read of a record: the byte goes into the trace and into `diag[]`. -/
def State.noted (s : State) (off : Offset) (k : Fin 6) : State :=
  (s.emit (.rd8 off (s.byteAt off))).putDiag k (s.byteAt off)

theorem recordStep_bootp (hm : s.mapped = true) (hsub : s.sub = 0#2) :
    recordStep i j k atEnd s = .next { s.noted Config.offBootp i with sub := 1#2 } := by
  rw [recordStep, if_pos hsub]
  exact recordDiag_of_mapped _ _ _ hm

theorem recordStep_stat (hm : s.mapped = true) (hsub : s.sub = 1#2) :
    recordStep i j k atEnd s = .next { s.noted Config.offStat j with sub := 2#2 } := by
  rw [recordStep, if_neg (hsub ▸ by decide), if_pos hsub]
  exact recordDiag_of_mapped _ _ _ hm

theorem recordStep_dipsw (hm : s.mapped = true) (hsub : s.sub = 2#2) :
    recordStep i j k atEnd s = .next (atEnd (s.noted Config.offDipsw k)) := by
  rw [recordStep, if_neg (hsub ▸ by decide), if_neg (hsub ▸ by decide), if_pos hsub]
  exact recordDiag_of_mapped _ _ _ hm

/-- The three events of a record, which are the three bytes it reads. -/
def State.recordEvents (s : State) : List BusEvent :=
  [.rd8 Config.offBootp (s.byteAt Config.offBootp), .rd8 Config.offStat (s.byteAt Config.offStat),
    .rd8 Config.offDipsw (s.byteAt Config.offDipsw)]

/-- The state after the three reads of a record. -/
def State.recorded (s : State) (i j k : Fin 6) : State :=
  { s with
    sub := 2#2
    diag := ((s.diag.set i.val (s.byteAt Config.offBootp)).set j.val
      (s.byteAt Config.offStat)).set k.val (s.byteAt Config.offDipsw)
    trace := s.trace ++ s.recordEvents }

@[simp] theorem State.byteAt_recorded (s : State) (i j k : Fin 6) (a : Offset) :
    (s.recorded i j k).byteAt a = s.byteAt a := rfl

/-- The three reads of a record, one after the other. -/
theorem State.noted_noted_noted (s : State) (i j k : Fin 6) :
    State.noted { State.noted { s.noted Config.offBootp i with sub := 1#2 } Config.offStat j with
      sub := 2#2 } Config.offDipsw k = s.recorded i j k := by
  simp [State.recorded, State.recordEvents, State.noted, State.putDiag, State.emit, State.byteAt]

/-- The whole record of a phase `p` whose step is a step of it. -/
theorem run_record {p : Phase}
    (hp : ∀ t : State, t.pc = p → phaseStep t = recordStep i j k atEnd t)
    (hidle : p ≠ .idle) (hq : s.Quiet) (hm : s.mapped = true) (hpc : s.pc = p)
    (hsub : s.sub = 0#2) : run 3 s = .next (atEnd (s.recorded i j k)) := by
  have hstep : ∀ t : State, t.Quiet → t.pc = p → step t = recordStep i j k atEnd t :=
    fun t ht hpct => (step_busy ht (hpct ▸ hidle)).trans (hp t hpct)
  have hbootp := (hstep s hq hpc).trans (recordStep_bootp hm hsub)
  have hstat := (hstep { s.noted Config.offBootp i with sub := 1#2 } hq hpc).trans
    (recordStep_stat hm rfl)
  have hdipsw := (hstep { State.noted { s.noted Config.offBootp i with sub := 1#2 }
    Config.offStat j with sub := 2#2 } hq hpc).trans (recordStep_dipsw hm rfl)
  rw [run_of_step hbootp, run_of_step hstat, run_one, hdipsw, State.noted_noted_noted]

/-! ## The acknowledge (R183) -/

/-- `stat` read again, masked and written back, and the second record next. -/
def State.acknowledged (s : State) : State :=
  { ((s.readStatTo .iqWr).store Config.offStat (ackValue (s.byteAt Config.offStat))).emit
      (.wr8 Config.offStat (ackValue (s.byteAt Config.offStat))) with
    sub := 0#2
    pc := .iqPost }

theorem phaseStep_iqRd (hm : s.mapped = true) (hpc : s.pc = .iqRd) :
    phaseStep s = .next (s.readStatTo .iqWr) := by
  rw [phaseStep, hpc]
  exact readStat_of_mapped _ hm

theorem run_acknowledge (hq : s.Quiet) (hm : s.mapped = true) (hpc : s.pc = .iqRd) :
    run 2 s = .next s.acknowledged := by
  have hread := (step_busy hq (hpc ▸ nofun)).trans (phaseStep_iqRd hm hpc)
  have hwrite : step (s.readStatTo .iqWr) = .next s.acknowledged :=
    (step_busy (s := s.readStatTo .iqWr) hq nofun).trans (phaseIqWr_of_mapped hm)
  rw [run_of_step hread, run_one, hwrite]

theorem State.byteAt_acknowledged_stat (hwf : s.mem.wf) :
    s.acknowledged.byteAt Config.offStat = ackValue (s.byteAt Config.offStat) :=
  Memory.read_write_same _ _ _ hwf

theorem State.byteAt_acknowledged_ne {a : Offset} (h : a ≠ Config.offStat) :
    s.acknowledged.byteAt a = s.byteAt a :=
  State.byteAt_store_ne s _ h

theorem ackValue_ackValue (v : Byte) : ackValue (ackValue v) = ackValue v := by
  rw [ackValue, ackValue, BitVec.and_assoc, BitVec.and_self]

/-! ## The whole service -/

/-- The state the service begins in (R180, R181). -/
def State.irqAccepted (s : State) : State := { s with owner := .irq, sub := 0#2, pc := .iqPre }

/-- The state after the record before the acknowledge. -/
def State.recordedBefore (s : State) : State := (s.irqAccepted.recorded 0 1 2).toAcknowledge

@[simp] theorem State.byteAt_recordedBefore (s : State) (a : Offset) :
    s.recordedBefore.byteAt a = s.byteAt a := rfl

/-- The state the service ends in. -/
def State.serviced (s : State) : State := (s.recordedBefore.acknowledged.recorded 3 4 5).finishIrq

theorem run_irqSvc (hq : s.Quiet) (hm : s.mapped = true) :
    run 8 s.irqAccepted = .next s.serviced := by
  have hpre : run 3 s.irqAccepted = .next s.recordedBefore :=
    run_record (fun _ => phaseStep_iqPre) nofun hq hm rfl rfl
  have hack := run_acknowledge (s := s.recordedBefore) hq hm rfl
  have hpost : run 3 s.recordedBefore.acknowledged = .next s.serviced :=
    run_record (fun _ => phaseStep_iqPost) nofun hq hm rfl rfl
  rw [run_add 3 5, hpre, andThen_next, run_add 2 3, hack, andThen_next, hpost]

theorem runCommand_irqSvc (hq : s.Quiet) (hm : s.mapped = true) :
    runCommand 8 .irqSvc s = .next s.serviced :=
  run_irqSvc hq hm

theorem State.wf_serviced (hwf : s.mem.wf) : s.serviced.mem.wf := State.wf_store s _ _ hwf

theorem State.byteAt_serviced_stat (hwf : s.mem.wf) :
    s.serviced.byteAt Config.offStat = ackValue (s.byteAt Config.offStat) :=
  State.byteAt_acknowledged_stat (s := s.recordedBefore) hwf

theorem State.byteAt_serviced_ne {a : Offset} (h : a ≠ Config.offStat) :
    s.serviced.byteAt a = s.byteAt a :=
  State.byteAt_acknowledged_ne (s := s.recordedBefore) h

/-! ## The events and the diagnostic record -/

/-- The eight events of the service (R187). -/
def State.serviceEvents (s : State) : List BusEvent :=
  s.recordEvents ++
    [.rd8 Config.offStat (s.byteAt Config.offStat),
      .wr8 Config.offStat (ackValue (s.byteAt Config.offStat)),
      .rd8 Config.offBootp (s.byteAt Config.offBootp),
      .rd8 Config.offStat (ackValue (s.byteAt Config.offStat)),
      .rd8 Config.offDipsw (s.byteAt Config.offDipsw)]

/-- The record after the acknowledge reads `stat` as it was written. -/
theorem State.recordEvents_acknowledged (hwf : s.mem.wf) :
    s.acknowledged.recordEvents =
      [.rd8 Config.offBootp (s.byteAt Config.offBootp),
        .rd8 Config.offStat (ackValue (s.byteAt Config.offStat)),
        .rd8 Config.offDipsw (s.byteAt Config.offDipsw)] := by
  rw [State.recordEvents, State.byteAt_acknowledged_stat hwf,
    State.byteAt_acknowledged_ne (by decide), State.byteAt_acknowledged_ne (by decide)]

theorem State.trace_serviced (hwf : s.mem.wf) :
    s.serviced.trace = s.trace ++ s.serviceEvents := by
  have htrace : s.serviced.trace = s.trace ++ s.recordEvents ++
      [.rd8 Config.offStat (s.byteAt Config.offStat)] ++
      [.wr8 Config.offStat (ackValue (s.byteAt Config.offStat))] ++
      s.recordedBefore.acknowledged.recordEvents := rfl
  rw [htrace, State.recordEvents_acknowledged (s := s.recordedBefore) hwf]
  simp [State.serviceEvents]

/-- The two records together fill `diag[]`. -/
theorem toList_of_six_sets (d : Vector Byte 6) (a b c x y z : Byte) :
    ((((((d.set 0 a).set 1 b).set 2 c).set 3 x).set 4 y).set 5 z).toList = [a, b, c, x, y, z] := by
  obtain ⟨⟨l⟩, hl⟩ := d
  match l, hl with
  | [_, _, _, _, _, _], _ => rfl

theorem State.diag_serviced (hwf : s.mem.wf) :
    s.serviced.diag.toList = [s.byteAt Config.offBootp, s.byteAt Config.offStat,
      s.byteAt Config.offDipsw, s.byteAt Config.offBootp, ackValue (s.byteAt Config.offStat),
      s.byteAt Config.offDipsw] := by
  refine (toList_of_six_sets ..).trans ?_
  rw [State.byteAt_acknowledged_stat (s := s.recordedBefore) hwf,
    State.byteAt_acknowledged_ne (s := s.recordedBefore) (a := Config.offBootp) (by decide),
    State.byteAt_acknowledged_ne (s := s.recordedBefore) (a := Config.offDipsw) (by decide)]
  rfl

/-- The service's end state, field by field. -/
theorem State.serviced_eq (hwf : s.mem.wf) :
    s.serviced = { s with
      mem := s.serviced.mem
      tmp := s.byteAt Config.offStat
      sub := 2#2
      owner := .irq
      diag := s.serviced.diag
      diagValid := true
      pc := .idle
      trace := s.trace ++ s.serviceEvents
      responses := s.responses ++ [⟨.irq, .handled, .none, []⟩] } := by
  rw [← State.trace_serviced hwf]
  rfl

end Sys2Proof.Machine

open Sys2Proof Sys2Proof.Machine

/-- Settles O37: a record, the acknowledge and a record, which finds `stat` as the acknowledge left
it. -/
theorem interruptServiceRecordsAndAcknowledges :
    Obligations.InterruptServiceRecordsAndAcknowledges :=
  fun s hq hm hwf => ⟨s.serviced, rfl, run_irqSvc hq hm, State.serviced_eq hwf,
    State.diag_serviced hwf, State.byteAt_serviced_stat hwf, fun _ => State.byteAt_serviced_ne⟩

/-- Settles O38: the low nibble of a low nibble is itself. -/
theorem secondInterruptServiceLeavesStat : Obligations.SecondInterruptServiceLeavesStat := by
  intro s hq hm hwf
  have hfirst := State.byteAt_serviced_stat hwf
  have hsecond := State.byteAt_serviced_stat (State.wf_serviced hwf)
  refine ⟨s.serviced, s.serviced.serviced, runCommand_irqSvc hq hm,
    runCommand_irqSvc (s := s.serviced) hq hm, hfirst, ?_⟩
  exact (hsecond.trans (congrArg ackValue hfirst)).trans ((ackValue_ackValue _).trans hfirst.symm)
end

section
/-!
SUPPORT. Attach and detach (44_lifecycle.md R191 to R194) under a quiescent environment: the step at
each of their phases, and the successful attach as two acquisitions, one write, the reset sequence and
the opening of the command port.
-/
namespace Sys2Proof.Machine

variable {s : State} {a : Offset}

/-! ## The steps of an attach (R191, R192) -/

theorem step_atMap_granted (hq : s.Quiet) (hpc : s.pc = .atMap) (hok : s.mapOk = true) :
    step s = .next { s with mapped := true, pc := .atIrq } := by
  rw [step_busy hq (hpc ▸ nofun), phaseStep, hpc]
  exact if_pos hok

theorem step_atMap_refused (hq : s.Quiet) (hpc : s.pc = .atMap) (hok : s.mapOk = false) :
    step s = .next (s.raiseResource .mapFail) := by
  rw [step_busy hq (hpc ▸ nofun), phaseStep, hpc]
  exact if_neg (ne_true_of_eq_false hok)

theorem step_atIrq_granted (hq : s.Quiet) (hpc : s.pc = .atIrq) (hok : s.irqOk = true) :
    step s = .next { s with irqBound := true, pc := .atDipsw } := by
  rw [step_busy hq (hpc ▸ nofun), phaseStep, hpc]
  exact if_pos hok

theorem step_atIrq_refused (hq : s.Quiet) (hpc : s.pc = .atIrq) (hok : s.irqOk = false) :
    step s = .next (s.goto .atUnwind) := by
  rw [step_busy hq (hpc ▸ nofun), phaseStep, hpc]
  exact if_neg (ne_true_of_eq_false hok)

theorem step_atUnwind (hq : s.Quiet) (hpc : s.pc = .atUnwind) :
    step s = .next (s.raiseResource .irqFail) := by
  rw [step_busy hq (hpc ▸ nofun), phaseStep, hpc]
  rfl

/-- `DIPSW_INIT` is written to `dipsw`. -/
def State.dipswWritten (s : State) : State :=
  (s.store Config.offDipsw s.params.dipswInit).emit (.wr8 Config.offDipsw s.params.dipswInit)

theorem step_atDipsw (hq : s.Quiet) (hm : s.mapped = true) (hpc : s.pc = .atDipsw) :
    step s = .next s.dipswWritten.enterReset := by
  rw [step_busy hq (hpc ▸ nofun), phaseStep, hpc]
  exact phaseAtDipsw_of_mapped hm

theorem step_atSurf (hq : s.Quiet) (hpc : s.pc = .atSurf) :
    step s = .next ({ s with surface := true }.respond .ok .none []) := by
  rw [step_busy hq (hpc ▸ nofun), phaseStep, hpc]
  rfl

/-! ## The steps of a detach (R193) -/

theorem step_dtSurf (hq : s.Quiet) (hpc : s.pc = .dtSurf) :
    step s = .next { s with surface := false, cmdReqs := [], pc := .dtIrq } := by
  rw [step_busy hq (hpc ▸ nofun), phaseStep, hpc]
  rfl

theorem step_dtIrq (hq : s.Quiet) (hpc : s.pc = .dtIrq) :
    step s = .next { s with irqBound := false, irqReq := none, pc := .dtMap } := by
  rw [step_busy hq (hpc ▸ nofun), phaseStep, hpc]
  rfl

theorem step_dtMap (hq : s.Quiet) (hpc : s.pc = .dtMap) :
    step s = .next ({ s with mapped := false }.respond .ok .none []) := by
  rw [step_busy hq (hpc ▸ nofun), phaseStep, hpc]
  rfl

/-! ## A failed attach -/

/-- The state an attach begins in. -/
def State.attachAccepted (s : State) (mapOk irqOk : Bool) : State :=
  { s with owner := .life, mapOk := mapOk, irqOk := irqOk, pc := .atMap }

/-- A failure leaves the flags of a board that is not attached as they were. -/
theorem State.raiseResource_of_detached (hm : s.mapped = false) (hi : s.irqBound = false)
    (hs : s.surface = false) (c : Cause) : s.raiseResource c = s.respond .eres c [] := by
  simp only [State.raiseResource, State.respond, hm, hi, hs]

theorem runCommand_attach (n : Nat) (mapOk irqOk : Bool) :
    runCommand n (.attach mapOk irqOk) s = run n (s.attachAccepted mapOk irqOk) := rfl

theorem run_attach_unmapped (hq : s.Quiet) (irqOk : Bool) :
    run 1 (s.attachAccepted false irqOk) =
      .next ((s.attachAccepted false irqOk).raiseResource .mapFail) :=
  (run_one _).trans (step_atMap_refused hq rfl rfl)

theorem run_attach_mapped (hq : s.Quiet) (irqOk : Bool) :
    run 1 (s.attachAccepted true irqOk) =
      .next { s.attachAccepted true irqOk with mapped := true, pc := .atIrq } :=
  (run_one _).trans (step_atMap_granted hq rfl rfl)

/-- The mapping that was acquired is released again by the failure. -/
theorem run_attach_unwound (hq : s.Quiet) :
    run 3 (s.attachAccepted true false) =
      .next ((s.attachAccepted true false).raiseResource .irqFail) := by
  have hirq := step_atIrq_refused
    (s := { s.attachAccepted true false with mapped := true, pc := .atIrq }) hq rfl rfl
  have hunwind := step_atUnwind
    (s := { s.attachAccepted true false with mapped := true, pc := .atUnwind }) hq rfl
  rw [run_add 1 2, run_attach_mapped hq, andThen_next, run_of_step hirq, run_one]
  exact hunwind

/-! ## A successful attach -/

/-- Mapping and interrupt binding are acquired. -/
def State.acquired (s : State) : State :=
  { s.attachAccepted true true with mapped := true, irqBound := true, pc := .atDipsw }

/-- The state in which the reset sequence of a successful attach has run. -/
def State.initialised (s : State) : State := s.acquired.dipswWritten.afterReset

/-- The state a successful attach ends in. -/
def State.attached (s : State) : State :=
  { s.initialised with surface := true }.respond .ok .none []

/-- For every progress, so that no unification runs the loops. -/
theorem State.turns_released_inReset (s : State) (p : ResetProgress) :
    (s.inReset p).released.turns = s.turns := rfl

theorem State.quiet_afterReset (hq : s.Quiet) : s.afterReset.Quiet :=
  (State.turns_released_inReset s resetCleared).trans hq

theorem run_acquire (hq : s.Quiet) : run 2 (s.attachAccepted true true) = .next s.acquired := by
  rw [run_add 1 1, run_attach_mapped hq, andThen_next, run_one]
  exact step_atIrq_granted hq rfl rfl

theorem State.byteAt_acquired_dipswWritten_ne (h : a ≠ Config.offDipsw) :
    s.acquired.dipswWritten.byteAt a = s.byteAt a :=
  State.byteAt_store_ne s.acquired _ h

theorem State.wf_acquired_dipswWritten (hwf : s.mem.wf) : s.acquired.dipswWritten.mem.wf :=
  State.wf_store s.acquired _ _ hwf

/-- What the reset sequence of an attach leaves in every field. -/
theorem State.initialised_eq (hwf : s.mem.wf) :
    s.initialised = { s.acquired with
      mem := s.initialised.mem
      tmp := s.byteAt Config.offStat
      idx := 1019#10
      iter := 29999#15
      sub := 2#2
      pc := .atSurf
      trace := s.trace ++
        .wr8 Config.offDipsw s.params.dipswInit :: resetEvents (s.byteAt Config.offStat) } := by
  rw [List.append_cons, ← State.byteAt_acquired_dipswWritten_ne (s := s) (by decide)]
  exact State.afterReset_eq (State.wf_acquired_dipswWritten hwf)

/-- Two acquisitions, the write of `dipsw`, the 92,044 steps of the sequence and the surface. -/
theorem run_attach (hq : s.Quiet) (hwf : s.mem.wf) :
    run 92048 (s.attachAccepted true true) = .next s.attached := by
  have hdipsw : run 1 s.acquired = .next s.acquired.dipswWritten.enterReset :=
    (run_one _).trans (step_atDipsw hq rfl rfl)
  have hreset : run 92044 s.acquired.dipswWritten.enterReset = .next s.initialised :=
    run_reset (s := s.acquired.dipswWritten) hq rfl nofun
  have hquiet : s.initialised.Quiet := State.quiet_afterReset (s := s.acquired.dipswWritten) hq
  have hpc : s.initialised.pc = .atSurf := by rw [State.initialised_eq hwf]
  have hsurf : run 1 s.initialised = .next s.attached :=
    (run_one _).trans (step_atSurf hquiet hpc)
  rw [run_add 2 92046, run_acquire hq, andThen_next, run_add 1 92045, hdipsw, andThen_next,
    run_add 92044 1, hreset, andThen_next, hsurf]

/-- What a successful attach leaves in every field. -/
theorem State.attached_eq (hwf : s.mem.wf) :
    s.attached = { s with
      mem := s.attached.mem
      tmp := s.byteAt Config.offStat
      idx := 1019#10
      iter := 29999#15
      sub := 2#2
      owner := .life
      mapOk := true
      irqOk := true
      mapped := true
      irqBound := true
      surface := true
      pc := .idle
      trace := s.trace ++
        .wr8 Config.offDipsw s.params.dipswInit :: resetEvents (s.byteAt Config.offStat)
      responses := s.responses ++ [⟨.life, .ok, .none, []⟩] } := by
  have hmem : s.attached.mem = s.initialised.mem := rfl
  rw [hmem, State.attached, State.initialised_eq hwf]
  rfl

/-! ## The bytes -/

theorem not_inBuffer_dipsw (c : Channel) : ¬ inBuffer c Config.offDipsw := by
  cases c <;> simp [inBuffer, Channel.base, Config.offBufA, Config.offBufB, Config.offDipsw]

/-- The reset sequence leaves `dipsw` alone. -/
theorem State.byteAt_attached_dipsw (hwf : s.mem.wf) :
    s.attached.byteAt Config.offDipsw = s.params.dipswInit :=
  (State.byteAt_afterReset_ne (State.wf_acquired_dipswWritten hwf) (by decide) (by decide)
    not_inBuffer_dipsw).trans (Memory.read_write_same _ _ _ hwf)

theorem State.byteAt_attached_ne (hwf : s.mem.wf) (hbootp : a ≠ Config.offBootp)
    (hstat : a ≠ Config.offStat) (hdipsw : a ≠ Config.offDipsw) (hbuf : ∀ c, ¬ inBuffer c a) :
    s.attached.byteAt a = s.byteAt a :=
  (State.byteAt_afterReset_ne (State.wf_acquired_dipswWritten hwf) hbootp hstat hbuf).trans
    (State.byteAt_acquired_dipswWritten_ne hdipsw)

theorem State.block_attached (hwf : s.mem.wf) (c : Channel) :
    s.attached.block c.base = List.replicate 1020 0x00#8 :=
  State.block_afterReset (State.wf_acquired_dipswWritten hwf) c

end Sys2Proof.Machine

open Sys2Proof Sys2Proof.Machine

/-- Settles O39: the steps before the reset sequence write `dipsw`, which the sequence leaves, and the
step after it opens the command port. -/
theorem attachInitialisesTheBoard : Obligations.AttachInitialisesTheBoard := by
  intro s hq hwf _ _ _
  have hwf' := State.wf_acquired_dipswWritten hwf
  refine ⟨s.attachAccepted true true, s.attached, rfl, rfl, run_attach hq hwf,
    State.attached_eq hwf, ?_, State.byteAt_afterReset_bootp hwf',
    State.byteAt_afterReset_stat hwf', State.byteAt_attached_dipsw hwf,
    State.block_attached hwf .a, State.block_attached hwf .b,
    fun a hbootp hstat hdipsw hA hB => State.byteAt_attached_ne hwf hbootp hstat hdipsw fun c => ?_⟩
  · rw [State.attached_eq hwf, List.length_append, List.length_cons, resetEvents_length]
  · cases c with
    | a => exact hA
    | b => exact hB

/-- Settles O40: each refusal ends in `raiseResource`, which leaves the three flags as they were before
the attach. -/
theorem failedAttachUnwinds : Obligations.FailedAttachUnwinds := by
  intro s hq hm hi hs
  have hflags (mapOk irqOk) (c) :=
    State.raiseResource_of_detached (s := s.attachAccepted mapOk irqOk) hm hi hs c
  refine ⟨fun irqOk => ?_, ⟨_, run_attach_mapped hq false, rfl, rfl⟩, ?_⟩
  · rw [runCommand_attach, run_attach_unmapped hq, hflags]
    rfl
  · rw [runCommand_attach, run_attach_unwound hq, hflags]
    rfl

/-- Settles O41: the three steps, one flag each. -/
theorem detachReleasesInOrder : Obligations.DetachReleasesInOrder := by
  intro s hq hm hi _
  have hsurf := step_dtSurf (s := { s with owner := .life, pc := .dtSurf }) hq rfl
  have hirq := step_dtIrq
    (s := { s with owner := .life, surface := false, cmdReqs := [], pc := .dtIrq }) hq rfl
  have hmap := step_dtMap
    (s := { s with owner := .life, surface := false, cmdReqs := [], irqBound := false,
                   irqReq := none, pc := .dtMap }) hq rfl
  refine ⟨rfl, ⟨_, (run_one _).trans hsurf, ?_⟩,
    ⟨_, (run_of_step hsurf).trans ((run_one _).trans hirq), ?_⟩,
    (run_of_step hsurf).trans ((run_of_step hirq).trans ((run_one _).trans hmap))⟩
  · rw [hi, hm]
  · rw [hm]
end

section
/-!
SUPPORT. The arbiter's answer (60_exceptions.md R207 to R209): the gates, that it stays only with nothing
acceptable, and that it accepts whichever candidate is named.
-/
namespace Sys2Proof.Machine

variable {s : State} {o : Offered} {r : Request}

/-! ## The gates of the lifecycle port (R207) -/

theorem lifeGate_attach {m q : Bool} (hd : decode r.word r.payload = .ok (.attach m q)) :
    lifeGate s r = !s.mapped := by
  simp [lifeGate, hd]

theorem lifeGate_detach (hd : decode r.word r.payload = .ok .detach) : lifeGate s r = s.surface := by
  simp [lifeGate, hd]

/-! ## The choice (R209) -/

/-- Every gate closed, there is nothing to accept. -/
theorem candidates_eq_nil_iff : candidates s = [] ↔
    ∀ o r, offeredRequest s o = some r → gateOpen s (offeredPort o) r = false := by
  simp only [List.eq_nil_iff_forall_not_mem, mem_candidates, not_exists, not_and,
    Bool.not_eq_true]

/-- A number that counts past the end of a list begins again at its head, and so names an entry. -/
theorem getD_mod_length_mem {α : Type} {l : List α} (h : l ≠ []) (k : Nat) (d : α) :
    l.getD (k % l.length) d ∈ l := by
  have hk : k % l.length < l.length := Nat.mod_lt k (List.length_pos_iff.2 h)
  rw [List.getD_eq_getElem _ _ hk]
  exact List.getElem_mem hk

/-- Whatever is acceptable, some choice names it. -/
theorem arbitrate_may_accept (ho : o ∈ candidates s) :
    ∃ k, arbitrate (some k) s = accept s o := by
  unfold arbitrate
  split
  · next hc => simp [hc] at ho
  · next c hc =>
    obtain rfl : o = c := by simpa [hc] using ho
    exact ⟨0, rfl⟩
  · next c d cs hc =>
    obtain ⟨k, hk, rfl⟩ := List.getElem_of_mem (hc ▸ ho)
    refine ⟨k, congrArg (accept s) ?_⟩
    have hmod : k % (cs.length + 2) = k := Nat.mod_eq_of_lt hk
    rw [hmod, List.getD_eq_getElem _ _ hk]

/-- With something acceptable the arbiter accepts, at most counting a draw (log entry 27). -/
theorem arbitrate_accepts (pick : Option Nat) (h : candidates s ≠ []) :
    ∃ o ∈ candidates s, ∃ d, arbitrate pick s = accept { s with draws := d } o := by
  unfold arbitrate
  split
  · next hc => exact absurd hc h
  · next c hc => exact ⟨c, by simp [hc], s.draws, rfl⟩
  · next c d cs hc =>
    have named (k : Nat) : (c :: d :: cs).getD (k % (cs.length + 2)) c ∈ candidates s := by
      rw [hc]
      exact getD_mod_length_mem (List.cons_ne_nil c (d :: cs)) k c
    cases pick with
    | some k => exact ⟨_, named k, s.draws, rfl⟩
    | none => exact ⟨_, named _, s.draws + 1, rfl⟩

/-- Acceptance takes the request off its port, whatever draws are counted (R208). -/
theorem accept_eq_takeOff (hr : offeredRequest s o = some r) (d : Nat) :
    accept { s with draws := d } o = acceptRequest (offeredPort o) r (takeOff s o d) := by
  have hr' : offeredRequest { s with draws := d } o = some r := by cases o <;> exact hr
  rw [accept, hr']
  rfl

/-- A command on its own port is done (R94, R208). -/
theorem acceptRequest_of_command {i : Instr} (hd : decode r.word r.payload = .ok i) :
    acceptRequest i.port r s = exec i s := by
  simp [acceptRequest, hd]

end Sys2Proof.Machine

open Sys2Proof Sys2Proof.Machine

/-- Settles O16: each gate is its flag, and with every gate closed the arbiter finds no candidate. -/
theorem closedGateHasNoStep : Obligations.ClosedGateHasNoStep := by
  refine ⟨fun s r => ⟨rfl, rfl, fun _ _ => lifeGate_attach, lifeGate_detach⟩, ?_⟩
  intro s hq hpc hclosed
  rw [step_idle hq hpc, arbitrate, candidates_eq_nil_iff.2 hclosed]

/-- Settles O17: the choice may name any candidate, and what it names is one. -/
theorem anyOpenRequestMayBeAccepted : Obligations.AnyOpenRequestMayBeAccepted := by
  intro s hpc
  simp only [engineStep_idle hpc]
  refine ⟨fun o r hr hg => arbitrate_may_accept (mem_candidates.2 ⟨r, hr, hg⟩), fun pick hc => ?_⟩
  obtain ⟨o, ho, d, haccept⟩ := arbitrate_accepts pick hc
  obtain ⟨r, hr, hg⟩ := mem_candidates.1 ho
  exact ⟨o, r, d, hr, hg, haccept⟩

/-- Settles O9: the only candidate is accepted, and its word is a command of its port. -/
theorem stepRunsTheDecodedCommand : Obligations.StepRunsTheDecodedCommand := by
  intro s o r i hq hpc hc hr hd hport
  rw [step_of_only_candidate hq hpc hc hr, ← hport, acceptRequest_of_command hd, hport]
  rfl
end

section
/-!
SUPPORT. The ports and `owner` while the engine is busy (60_exceptions.md R208, 44_lifecycle.md R193).
-/
namespace Sys2Proof.Machine

variable {s t : State}

/-- From `s` to `t` nothing is accepted: `owner` stays, and so does every request but those that the phases
`DT_SURF` and `DT_IRQ` drop (log entry 10). -/
def NothingAccepted (s t : State) : Prop :=
  t.owner = s.owner ∧ t.lifeReq = s.lifeReq ∧
    (s.pc ≠ .dtSurf → t.cmdReqs = s.cmdReqs) ∧ (s.pc ≠ .dtIrq → t.irqReq = s.irqReq)

theorem Advance.nothingAccepted (h : Advance s t) : NothingAccepted s t := by
  cases h with
  | closeSurface hpc => exact ⟨rfl, rfl, absurd hpc, fun _ => rfl⟩
  | unbindIrq hpc => exact ⟨rfl, rfl, fun _ => rfl, absurd hpc⟩
  | _ => exact ⟨rfl, rfl, fun _ => rfl, fun _ => rfl⟩

/-- An access touches neither `owner` nor a port, so what follows it says it for the step. -/
theorem BusyStep.nothingAccepted (h : BusyStep s t) : NothingAccepted s t := by
  obtain ⟨u, ha, -, hadv⟩ := h
  cases ha <;> exact hadv.nothingAccepted

end Sys2Proof.Machine

open Sys2Proof Sys2Proof.Machine

/-- Settles O18: a busy engine asks no arbiter, and no advance takes a request off its port. -/
theorem busyEngineAcceptsNothing : Obligations.BusyEngineAcceptsNothing :=
  fun _ _ _ hpc h => (phaseStep_busyStep hpc (engineStep_busy hpc ▸ h)).nothingAccepted
end

section
/-!
SUPPORT. Every answer acceptance of a command can give (30_encoding.md R104, 60_exceptions.md R201, R204): a
rejection, the begin of its sequence, or the refusal of a payload that R92 excludes.
-/
namespace Sys2Proof.Machine

/-- What acceptance of a command but `GET_BUFSIZE` can answer. -/
inductive Verdict (i : Instr) (s : State) : Result → Prop where
  | rejected (c : Cause) : Verdict i s (.next (s.raiseInvalid c))
  | begun {t : State} (hpc : t.pc ≠ .idle) : Verdict i s (.next t)
  | mismatched (hwf : i.wellFormed = false) : Verdict i s (.refused .payloadMismatch)

variable {i : Instr} {s : State} {o : Offered} {r : Request}

/-! ## The verdict on each command -/

theorem acceptSet_verdict (reg : Reg) (v : Operand) : Verdict i s (acceptSet reg v s) := by
  unfold acceptSet
  split
  · exact .rejected _
  · exact .begun nofun

theorem lengthOperand_eq_none {len : Word32} : lengthOperand len = none ↔ len.toNat = 1020 := by
  simp [lengthOperand]

/-- Past the length check only a payload of another length is refused (R92, R103). -/
theorem acceptXfer_verdict {c : Channel} {first : Phase} {len : Word32} {data : List Byte}
    (hfirst : first ≠ .idle) (hwf : i.wellFormed = decide (data.length = len.toNat)) :
    Verdict i s (acceptXfer c first len data s) := by
  unfold acceptXfer
  split
  · exact .rejected _
  · next hnone =>
    have hlen := lengthOperand_eq_none.1 hnone
    split
    · exact .begun hfirst
    · next hsize => exact .mismatched (hwf.trans (by simpa [hlen] using hsize))

theorem execGetZeropage_verdict : Verdict i s (execGetZeropage s) := by
  unfold execGetZeropage
  split
  · exact .begun nofun
  · exact .rejected _

theorem execReset_verdict (n : Operand) : Verdict i s (execReset n s) := by
  unfold execReset
  split
  · exact .rejected _
  · exact .begun nofun

theorem exec_verdict (s : State) (h : i ≠ .getBufsize) : Verdict i s (exec i s) := by
  cases i with
  | getBootp | getStat | getDipsw | getFfe | getFff | rdA | rdB | irqSvc | attach | detach =>
    exact .begun nofun
  | setBootp | setStat | setDipsw | setFfe | setFff => exact acceptSet_verdict _ _
  | xferA | xferB => exact acceptXfer_verdict nofun rfl
  | getBufsize => exact absurd rfl h
  | getZeropage => exact execGetZeropage_verdict
  | reset => exact execReset_verdict _

/-! ## Nothing stops (R204) -/

theorem Verdict.goes {res : Result} (hwf : i.wellFormed = true) (h : Verdict i s res) :
    ∃ t, res = .next t := by
  cases h with
  | rejected => exact ⟨_, rfl⟩
  | begun => exact ⟨_, rfl⟩
  | mismatched hbad => simp [hwf] at hbad

theorem exec_goes (s : State) (hwf : i.wellFormed = true) : ∃ t, exec i s = .next t := by
  by_cases h : i = .getBufsize
  · subst h
    exact ⟨_, rfl⟩
  · exact (exec_verdict s h).goes hwf

/-- The payload of a transfer's request, as the front end builds it, has `ARG` bytes (R92). -/
theorem payload_length_of_xfer (hr : r.wellFormed = true)
    (ho : opcField r.word = 0x30#8 ∨ opcField r.word = 0x31#8) :
    r.payload.length = (argField r.word).toNat := by
  have hlen : r.payload.length + 6 = commandLength r.word := by simpa [Request.wellFormed] using hr
  rw [commandLength, if_pos ho] at hlen
  omega

/-- A request as the front end builds it decodes to a well-formed command (R92). -/
theorem wellFormed_of_decode (hr : r.wellFormed = true) (hd : decode r.word r.payload = .ok i) :
    i.wellFormed = true := by
  obtain ⟨-, hopc, hxfer⟩ := decode_ok hd
  cases i with
  | xferA len data =>
    obtain ⟨rfl, rfl⟩ := hxfer len data (.inl rfl)
    simp [Instr.wellFormed, payload_length_of_xfer hr (.inl hopc)]
  | xferB len data =>
    obtain ⟨rfl, rfl⟩ := hxfer len data (.inr rfl)
    simp [Instr.wellFormed, payload_length_of_xfer hr (.inr hopc)]
  | _ => rfl

theorem acceptRequest_goes (p : Port) (s : State) (hr : r.wellFormed = true) :
    ∃ t, acceptRequest p r s = .next t := by
  unfold acceptRequest
  split
  · exact ⟨_, rfl⟩
  · next hd =>
    split
    · exact exec_goes s (wellFormed_of_decode hr hd)
    · exact ⟨_, rfl⟩

theorem Inv.offered_wellFormed (hs : Inv s) (hr : offeredRequest s o = some r) :
    r.wellFormed = true := by
  cases o with
  | cmd k => exact hs.cmdReqs r (List.mem_of_getElem? hr)
  | irq => exact hs.irqReq r hr
  | life => exact hs.lifeReq r hr

theorem arbitrate_goes (pick : Option Nat) (hs : Inv s) : ∃ t, arbitrate pick s = .next t := by
  by_cases hc : candidates s = []
  · exact ⟨s, by rw [arbitrate, hc]⟩
  · obtain ⟨o, ho, d, haccept⟩ := arbitrate_accepts pick hc
    obtain ⟨r, hr, -⟩ := mem_candidates.1 ho
    rw [haccept, accept_eq_takeOff hr]
    exact acceptRequest_goes _ _ (hs.offered_wellFormed hr)

theorem engineStep_goes (pick : Option Nat) (hs : Inv s) : ∃ t, engineStep pick s = .next t := by
  by_cases hpc : s.pc = .idle
  · exact engineStep_idle hpc ▸ arbitrate_goes pick hs
  · exact engineStep_busy hpc ▸ phaseStep_goes hs.control hpc

/-- With no turn due the step is the engine's (R14, R76). -/
theorem step_quiet (hq : s.Quiet) : step s = engineStep none s := by
  rw [step, takeTurn, show s.turns = [] from hq]

end Sys2Proof.Machine

open Sys2Proof Sys2Proof.Machine

/-- Settles O15: of the answers acceptance can give only a rejection is at `IDLE`. -/
theorem rejectionChangesNothingElse : Obligations.RejectionChangesNothingElse := by
  intro i s t h hpc hne
  have hv := exec_verdict s hne
  rw [h] at hv
  cases hv with
  | rejected c => exact ⟨c, rfl⟩
  | begun hbusy => exact absurd hpc hbusy

/-- Settles O50: a busy engine has its phase's step, an idle one accepts only requests that the front end
built, and a target step and an offer answer always. -/
theorem noStepStops : Obligations.NoStepStops := by
  intro s hs
  cases hturns : s.turns with
  | nil =>
    rw [step_quiet hturns]
    exact engineStep_goes none hs
  | cons turn rest =>
    cases turn with
    | engine k =>
      rw [step_engine hturns]
      exact engineStep_goes (some k) (hs.withTurns (hturns ▸ List.suffix_cons ..))
    | target w q => exact ⟨_, step_target hturns⟩
    | offer p r => exact ⟨_, step_offer hturns⟩
end

section
/-!
SUPPORT. The read-modify-writes of `stat` (70_reset_and_hazards.md R243): a target step between the read
and the write changes the window, not `tmp`, and the write is computed from `tmp`.
-/
namespace Sys2Proof.Machine

/-- The phase `p` reads `stat` into `tmp`, and the phase `p'` after it writes `f tmp` to `stat`. -/
structure UpdatesStat (p p' : Phase) (f : Byte → Byte) : Prop where
  read_busy : p ≠ .idle
  write_busy : p' ≠ .idle
  read : ∀ s : State, s.mapped = true → s.pc = p → phaseStep s = .next (s.readStatTo p')
  write : ∀ s : State, s.mapped = true → s.pc = p' → ∃ t, phaseStep s = .next t ∧
    t.trace = s.trace ++ [.wr8 Config.offStat (f s.tmp)] ∧
    t.mem = s.mem.write Config.offStat.toNat (f s.tmp)

theorem updatesStat_preClear : UpdatesStat .xbPreRd .xbPreWr preClearValue where
  read_busy := nofun
  write_busy := nofun
  read _ := phaseStep_xbPreRd
  write s hm hpc := ⟨_, by rw [phaseStep, hpc]; exact phaseXbPreWr_of_mapped hm, rfl, rfl⟩

theorem updatesStat_nudge : UpdatesStat .xSt2 .xNudge nudgeValue where
  read_busy := nofun
  write_busy := nofun
  read _ := phaseStep_xSt2
  write _ hm hpc := ⟨_, phaseStep_xNudge hm hpc, rfl, rfl⟩

theorem updatesStat_reset : UpdatesStat .rsStRd .rsStWr resetStatValue where
  read_busy := nofun
  write_busy := nofun
  read _ := phaseStep_rsStRd
  write _ hm hpc := ⟨_, phaseStep_rsStWr hm hpc, rfl, rfl⟩

theorem updatesStat_acknowledge : UpdatesStat .iqRd .iqWr ackValue where
  read_busy := nofun
  write_busy := nofun
  read _ := phaseStep_iqRd
  write s hm hpc := ⟨_, by rw [phaseStep, hpc]; exact phaseIqWr_of_mapped hm, rfl, rfl⟩

/-- R243: the write is computed from the old read, whatever the target writes in between. -/
theorem UpdatesStat.run_across_target {p p' : Phase} {f : Byte → Byte} (h : UpdatesStat p p' f)
    {s : State} {w : List (Offset × Byte)} {q : Bool} {j k : Nat} {rest : List Turn}
    (hm : s.mapped = true) (hwf : s.mem.wf) (hpc : s.pc = p)
    (hturns : s.turns = .engine j :: .target w q :: .engine k :: rest) :
    ∃ u, run 3 s = .next u ∧
      u.trace = s.trace ++ [.rd8 Config.offStat (s.byteAt Config.offStat),
        .wr8 Config.offStat (f (s.byteAt Config.offStat))] ∧
      u.byteAt Config.offStat = f (s.byteAt Config.offStat) := by
  have hread : step s =
      .next { s.readStatTo p' with turns := .target w q :: .engine k :: rest } :=
    (step_engine_busy hturns (hpc ▸ h.read_busy)).trans (h.read _ hm hpc)
  let t := targetStep w q { s.readStatTo p' with turns := .engine k :: rest }
  have htarget : step { s.readStatTo p' with turns := .target w q :: .engine k :: rest } =
      .next t := step_target rfl
  obtain ⟨u, hphase, htrace, hmem⟩ := h.write { t with turns := rest } hm rfl
  have hwrite : step t = .next u := (step_engine_busy rfl h.write_busy).trans hphase
  refine ⟨u, ?_, ?_, ?_⟩
  · rw [run_of_step hread, run_of_step htarget, run_one, hwrite]
  · exact htrace.trans (List.append_assoc ..)
  · rw [State.byteAt, hmem]
    exact Memory.read_write_same _ _ _ (targetWrites_wf s.params w hwf)

end Sys2Proof.Machine

open Sys2Proof Sys2Proof.Machine

/-- Settles O31: each of the four is an update of `stat`, whose write does not see the target's. -/
theorem targetChangeOfStatBetweenReadAndWriteIsLost :
    Obligations.TargetChangeOfStatBetweenReadAndWriteIsLost := by
  intro p f hpf s v q j k rest hm hwf hpc hturns
  have hupdates : ∃ p', UpdatesStat p p' f := by
    simp only [List.mem_cons, List.not_mem_nil, or_false, Prod.mk.injEq] at hpf
    obtain ⟨rfl, rfl⟩ | ⟨rfl, rfl⟩ | ⟨rfl, rfl⟩ | ⟨rfl, rfl⟩ := hpf
    · exact ⟨_, updatesStat_preClear⟩
    · exact ⟨_, updatesStat_nudge⟩
    · exact ⟨_, updatesStat_reset⟩
    · exact ⟨_, updatesStat_acknowledge⟩
  obtain ⟨p', h⟩ := hupdates
  exact h.run_across_target hm hwf hpc hturns
end
